-- ==== Sys2Proof/Word.lean ====
section
/-! DEFINITION. The words of the NetKeyer CW core: the command word, the sample, the time stamp, and what a float32 sample is worth. -/

namespace Sys2Proof

/-- One command word on the CMD port, 64 bits (R44). -/
abbrev CmdWord := BitVec 64

/-- A 24-bit operand field of a command word (R44). -/
abbrev Operand := BitVec 24

/-- One float32 sample, as its 32 bits (R32, R35). PRESUMED: the format is binary32 of IEEE 754 (log 20). -/
abbrev Sample := BitVec 32

/-- A TIME value in microseconds, unsigned 64 bits (R17, R18). -/
abbrev Time := BitVec 64

/-- The sample of Silent and TimedSilence, +0.0 (R80). -/
def silenceSample : Sample := 0#32

/-- The bits of a float32 below its sign: they order magnitudes as unsigned numbers do. -/
def Sample.magnitude (v : Sample) : BitVec 32 := v &&& 0x7fffffff#32

/-- The exponent field of a float32. -/
def Sample.exponent (v : Sample) : Nat := (v.toNat / 2 ^ 23) % 2 ^ 8

/-- The fraction field of a float32. -/
def Sample.fraction (v : Sample) : Nat := v.toNat % 2 ^ 23

/-- A float32 is finite when its exponent field is not all ones. -/
def Sample.IsFinite (v : Sample) : Prop := v.exponent ≠ 255

/-- The magnitude of a finite float32 as an exact rational (zero and subnormals have exponent field 0). -/
def Sample.absValue (v : Sample) : ℚ :=
  if v.exponent = 0 then (v.fraction : ℚ) / 2 ^ 149
  else ((2 ^ 23 + v.fraction : Nat) : ℚ) * 2 ^ v.exponent / 2 ^ 150

end Sys2Proof
end

