-- ==== Sys2Proof/Syntax.lean ====
section
/-! DEFINITION. The thirteen operations of the core (30_encoding.md R46), one constructor per row of spec/opcode_table.json, with the
operand fields each row uses. -/

namespace Sys2Proof

/-- The operations of R46. An `Operand` is the A or B field of the word, a `Bool` its P0 or P1 bit (R44, R45). -/
inductive Instr where
  /-- SET_FREQUENCY, OP 0x01 (R58); `hz` is A, read signed. -/
  | setFrequency (hz : Operand)
  /-- SET_VOLUME, OP 0x02 (R59); `pct` is A, read signed. -/
  | setVolume (pct : Operand)
  /-- SET_WPM, OP 0x03 (R60); `wpm` is A, read signed. -/
  | setWpm (wpm : Operand)
  /-- SET_MODE_B, OP 0x04 (R104); `b` is P0. -/
  | setModeB (b : Bool)
  /-- START_TONE, OP 0x10 (R69); `us` is A, in µs. -/
  | startTone (us : Operand)
  /-- START_SILENCE_THEN_TONE, OP 0x11 (R70); `us` is A, the silence, and `ut` is B, the tone, in µs. -/
  | startSilenceThenTone (us ut : Operand)
  /-- QUEUE_SILENCE, OP 0x12 (R71); `us` is A, the silence; `follow` is P0; `ut` is B, the following tone (0 when P0 = 0, R47). -/
  | queueSilence (us : Operand) (follow : Bool) (ut : Operand)
  /-- START_INDEFINITE_TONE, OP 0x13 (R72). -/
  | startIndefiniteTone
  /-- ENGINE_STOP, OP 0x14 (R73). -/
  | engineStop
  /-- UPDATE_PADDLE, OP 0x20 (R102); `dit` is P0 and `dah` is P1. -/
  | updatePaddle (dit dah : Bool)
  /-- STOP, OP 0x21 (R103). -/
  | stop
  /-- READ, OP 0x30 (R79); `count` is A. -/
  | read (count : Operand)
  /-- SWAP_ENGINE, OP 0x31 (R105). -/
  | swapEngine
deriving DecidableEq, Repr

end Sys2Proof
end

