-- ==== Sys2Proof/WellFormed.lean ====
section
/-! DEFINITION. Which operations have a command word. The operand types hold every width check; the one check left is R47's. -/

namespace Sys2Proof

/-- An operation is well formed when its word is (R47, R49): a QUEUE_SILENCE with no following tone has B = 0. Value ranges never make
an operation ill-formed (R50). -/
def Instr.wellFormed : Instr → Bool
  | .setFrequency _ => true
  | .setVolume _ => true
  | .setWpm _ => true
  | .setModeB _ => true
  | .startTone _ => true
  | .startSilenceThenTone _ _ => true
  | .queueSilence _ follow ut => follow || ut == 0#24
  | .startIndefiniteTone => true
  | .engineStop => true
  | .updatePaddle _ _ => true
  | .stop => true
  | .read _ => true
  | .swapEngine => true

/-- The same, as a proposition. -/
abbrev Instr.WellFormed (i : Instr) : Prop := i.wellFormed = true

end Sys2Proof
end

