-- ==== Sys2Proof/Decode.lean ====
section
/-! DEFINITION. The command word (30_encoding.md R44 to R49): decoding, total on every 64-bit word and refusing by name, and encoding,
written from the same table. -/

namespace Sys2Proof

/-- Why a word is ill-formed (R47, R49). -/
inductive DecodeError where
  /-- OP is not in the table of R46. -/
  | unknownOpcode (op : BitVec 8)
  /-- A bit of RES is 1. -/
  | reservedBits
  /-- A field the opcode does not use is not zero. -/
  | unusedField
  /-- QUEUE_SILENCE with P0 = 0 and B not zero (R47). -/
  | toneWithoutFlag
  /-- A byte transport holds fewer than the eight bytes of a word (R33). -/
  | truncated
deriving DecidableEq, Repr

/-- OP, bits [63:56] (R44). -/
def opField (w : CmdWord) : BitVec 8 := w.extractLsb' 56 8
/-- RES, bits [55:50] (R44). -/
def resField (w : CmdWord) : BitVec 6 := w.extractLsb' 50 6
/-- P1, bit [49] (R44). -/
def p1Field (w : CmdWord) : Bool := w.getLsbD 49
/-- P0, bit [48] (R44). -/
def p0Field (w : CmdWord) : Bool := w.getLsbD 48
/-- A, bits [47:24] (R44). -/
def aField (w : CmdWord) : Operand := w.extractLsb' 24 24
/-- B, bits [23:0] (R44). -/
def bField (w : CmdWord) : Operand := w.extractLsb' 0 24

/-- Accept `i` when the fields its opcode does not use are zero (R46, R49). -/
def whenUnusedZero (unusedZero : Bool) (i : Instr) : Except DecodeError Instr :=
  if unusedZero then .ok i else .error .unusedField

/-- Decode by OP, the row's unused fields required to be zero (R46). -/
def decodeByOp (w : CmdWord) : Except DecodeError Instr :=
  match (opField w).toNat with
  | 0x01 => whenUnusedZero (!p1Field w && !p0Field w && bField w == 0#24) (.setFrequency (aField w))
  | 0x02 => whenUnusedZero (!p1Field w && !p0Field w && bField w == 0#24) (.setVolume (aField w))
  | 0x03 => whenUnusedZero (!p1Field w && !p0Field w && bField w == 0#24) (.setWpm (aField w))
  | 0x04 => whenUnusedZero (!p1Field w && aField w == 0#24 && bField w == 0#24) (.setModeB (p0Field w))
  | 0x10 => whenUnusedZero (!p1Field w && !p0Field w && bField w == 0#24) (.startTone (aField w))
  | 0x11 => whenUnusedZero (!p1Field w && !p0Field w) (.startSilenceThenTone (aField w) (bField w))
  | 0x12 =>
    if !p0Field w && bField w != 0#24 then .error .toneWithoutFlag
    else whenUnusedZero (!p1Field w) (.queueSilence (aField w) (p0Field w) (bField w))
  | 0x13 => whenUnusedZero (!p1Field w && !p0Field w && aField w == 0#24 && bField w == 0#24) .startIndefiniteTone
  | 0x14 => whenUnusedZero (!p1Field w && !p0Field w && aField w == 0#24 && bField w == 0#24) .engineStop
  | 0x20 => whenUnusedZero (aField w == 0#24 && bField w == 0#24) (.updatePaddle (p0Field w) (p1Field w))
  | 0x21 => whenUnusedZero (!p1Field w && !p0Field w && aField w == 0#24 && bField w == 0#24) .stop
  | 0x30 => whenUnusedZero (!p1Field w && !p0Field w && bField w == 0#24) (.read (aField w))
  | 0x31 => whenUnusedZero (!p1Field w && !p0Field w && aField w == 0#24 && bField w == 0#24) .swapEngine
  | _ => .error (.unknownOpcode (opField w))

/-- Decode a command word: total, and an ill-formed word (R49) is refused by name. -/
def decode (w : CmdWord) : Except DecodeError Instr :=
  if resField w == 0#6 then decodeByOp w else .error .reservedBits

/-- Put the fields of R44 together, RES being 0. -/
def pack (op : BitVec 8) (p1 p0 : Bool) (a b : Operand) : CmdWord :=
  op ++ (0#6 ++ (BitVec.ofBool p1 ++ (BitVec.ofBool p0 ++ (a ++ b))))

/-- The command word of an operation (R44, R46). -/
def encode : Instr → CmdWord
  | .setFrequency hz => pack 0x01#8 false false hz 0#24
  | .setVolume pct => pack 0x02#8 false false pct 0#24
  | .setWpm wpm => pack 0x03#8 false false wpm 0#24
  | .setModeB b => pack 0x04#8 false b 0#24 0#24
  | .startTone us => pack 0x10#8 false false us 0#24
  | .startSilenceThenTone us ut => pack 0x11#8 false false us ut
  | .queueSilence us follow ut => pack 0x12#8 false follow us ut
  | .startIndefiniteTone => pack 0x13#8 false false 0#24 0#24
  | .engineStop => pack 0x14#8 false false 0#24 0#24
  | .updatePaddle dit dah => pack 0x20#8 dah dit 0#24 0#24
  | .stop => pack 0x21#8 false false 0#24 0#24
  | .read count => pack 0x30#8 false false count 0#24
  | .swapEngine => pack 0x31#8 false false 0#24 0#24

/-- One row of spec/opcode_table.json: a word is of the row when its bits under `mask` are those of `pattern`. -/
structure OpcodeRow where
  mnemonic : String
  pattern : CmdWord
  mask : CmdWord
deriving DecidableEq, Repr

/-- spec/opcode_table.json, row by row. -/
def opcodeTable : List OpcodeRow :=
  [ ⟨"SET_FREQUENCY", 0x0100000000000000#64, 0xFFFF000000FFFFFF#64⟩,
    ⟨"SET_VOLUME", 0x0200000000000000#64, 0xFFFF000000FFFFFF#64⟩,
    ⟨"SET_WPM", 0x0300000000000000#64, 0xFFFF000000FFFFFF#64⟩,
    ⟨"SET_MODE_B", 0x0400000000000000#64, 0xFFFEFFFFFFFFFFFF#64⟩,
    ⟨"START_TONE", 0x1000000000000000#64, 0xFFFF000000FFFFFF#64⟩,
    ⟨"START_SILENCE_THEN_TONE", 0x1100000000000000#64, 0xFFFF000000000000#64⟩,
    ⟨"QUEUE_SILENCE", 0x1200000000000000#64, 0xFFFE000000000000#64⟩ ] ++
  [ ⟨"START_INDEFINITE_TONE", 0x1300000000000000#64, 0xFFFFFFFFFFFFFFFF#64⟩,
    ⟨"ENGINE_STOP", 0x1400000000000000#64, 0xFFFFFFFFFFFFFFFF#64⟩,
    ⟨"UPDATE_PADDLE", 0x2000000000000000#64, 0xFFFCFFFFFFFFFFFF#64⟩,
    ⟨"STOP", 0x2100000000000000#64, 0xFFFFFFFFFFFFFFFF#64⟩,
    ⟨"READ", 0x3000000000000000#64, 0xFFFF000000FFFFFF#64⟩,
    ⟨"SWAP_ENGINE", 0x3100000000000000#64, 0xFFFFFFFFFFFFFFFF#64⟩ ]

/-- Whether a word is of a row. -/
def OpcodeRow.matchesWord (r : OpcodeRow) (w : CmdWord) : Bool := w &&& r.mask == r.pattern

/-- The row of an operation, by name. -/
def Instr.mnemonic : Instr → String
  | .setFrequency _ => "SET_FREQUENCY"
  | .setVolume _ => "SET_VOLUME"
  | .setWpm _ => "SET_WPM"
  | .setModeB _ => "SET_MODE_B"
  | .startTone _ => "START_TONE"
  | .startSilenceThenTone _ _ => "START_SILENCE_THEN_TONE"
  | .queueSilence _ _ _ => "QUEUE_SILENCE"
  | .startIndefiniteTone => "START_INDEFINITE_TONE"
  | .engineStop => "ENGINE_STOP"
  | .updatePaddle _ _ => "UPDATE_PADDLE"
  | .stop => "STOP"
  | .read _ => "READ"
  | .swapEngine => "SWAP_ENGINE"

/-- The word whose bytes a transport delivers: byte 0 holds bits [7:0] (R33). -/
def wordOfBytes (b0 b1 b2 b3 b4 b5 b6 b7 : BitVec 8) : CmdWord :=
  b7 ++ (b6 ++ (b5 ++ (b4 ++ (b3 ++ (b2 ++ (b1 ++ b0))))))

/-- Decode from a transport's bytes, and the bytes after the word (R33). -/
def decodeBytes : List (BitVec 8) → Except DecodeError (Instr × List (BitVec 8))
  | b0 :: b1 :: b2 :: b3 :: b4 :: b5 :: b6 :: b7 :: rest =>
    (decode (wordOfBytes b0 b1 b2 b3 b4 b5 b6 b7)).map (fun i => (i, rest))
  | _ => .error .truncated

/-- The command word whose lowest `nbits` bits are those of `w`, all higher bits 0. -/
def tableWord (nbits w : Nat) : CmdWord := BitVec.ofNat 64 (w % 2 ^ nbits)

/-- What the decoder reads from a word numbered as spec/opcode_table.json numbers it. -/
def decodeTableWord (nbits w : Nat) : Option Instr :=
  match decode (tableWord nbits w) with
  | .ok i => some i
  | .error _ => none

end Sys2Proof
end

