-- ==== Sys2Proof/Config.lean ====
section
/-! DEFINITION. What an implementation of the core fixes (00_scope.md R8), and the free values: constants with no body, of which no
proof can see a value. -/

namespace Sys2Proof

/-- The tie rule of `round` (R8, R9, D7). -/
inductive RoundTies where
  | toEven
  | awayFromZero
deriving DecidableEq, Repr

/-- The engine's stop policy (R8, R73, D15). -/
inductive StopPolicy where
  | graceful
  | truncate
deriving DecidableEq, Repr

/-- Which patch a sample belongs to (R22, R54). -/
inductive PatchKind where
  | cycle
  | rampUp
  | rampDown
deriving DecidableEq, Repr

/-- The parameters of R8. The state carries them, no operation writes them (R134), so a statement about every state is one about
every parameter value. -/
structure Config where
  /-- SR, samples per second. -/
  sr : Nat
  /-- ROUND_TIES. -/
  roundTies : RoundTies
  /-- LEAD, in samples (R83). -/
  lead : Nat
  /-- STOP_POLICY (R73). -/
  stopPolicy : StopPolicy
  /-- LATCH_CLEAR_AT_TONE_COMPLETE (R107). -/
  latchClearAtToneComplete : Bool
  /-- RADIO_PRESENT (R19). -/
  radioPresent : Bool
  /-- CLIENT_HANDLE, opaque to the block (R19). -/
  clientHandle : BitVec 32
  /-- RESET_FREQ_HZ (R134). -/
  resetFreqHz : Nat
  /-- RESET_VOLUME (R134). -/
  resetVolume : Nat
  /-- RESET_WPM (R134). -/
  resetWpm : Nat
  /-- RESET_MODE_B (R134). -/
  resetModeB : Bool
deriving DecidableEq, Repr

/-- The admitted ranges of the parameters (R8, R134). -/
abbrev Config.Admitted (c : Config) : Prop :=
  (8000 ≤ c.sr ∧ c.sr ≤ 192000) ∧ (100 ≤ c.resetFreqHz ∧ c.resetFreqHz ≤ 2000) ∧ c.resetVolume ≤ 100
    ∧ (5 ≤ c.resetWpm ∧ c.resetWpm ≤ 60)

/-- The default value of every parameter (R8). DESIGN CHOICE: `clientHandle` 0, for which R8 gives no default (log 1). -/
def Config.default : Config where
  sr := 48000
  roundTies := .toEven
  lead := 1
  stopPolicy := .graceful
  latchClearAtToneComplete := false
  radioPresent := true
  clientHandle := 0#32
  resetFreqHz := 600
  resetVolume := 50
  resetWpm := 20
  resetModeB := false

/-- FREE VALUE (log 3). The bits from which PATCH_VALUE(kind, n, SPC, L, G) is made (R54, I9): nothing is known of them. The machine
reads them only through `Machine.patchValue`, which holds them to (b) and (c) of R54. -/
opaque Config.patchBits : PatchKind → Nat → Nat → Nat → Rat → Sample

/-- FREE VALUE (log 4). What a read of a patch beyond its last entry gives. In no state that meets `Machine.Consistent` does a READ do so. -/
opaque Config.strayPatchSample : PatchKind → Nat → Sample

end Sys2Proof
end

