-- ==== Sys2Proof/Machine/Numeric.lean ====
section
/-! DEFINITION. The core's exact arithmetic (00_scope.md R9): rounding, clamping, durations and the counts made from them. -/

namespace Sys2Proof.Machine

/-- A non-negative duration of exactly `num / den` ms (R45, R48; log 17). -/
structure Millis where
  num : Nat
  den : Nat
deriving DecidableEq, Repr

/-- `u` µs are `u / 1000` ms (R45). -/
def usMillis (u : Nat) : Millis := ⟨u, 1000⟩

/-- `toSamples(d) = floor(d × SR / 1000)` (R62). -/
def toSamples (sr : Nat) (d : Millis) : Nat := d.num * sr / (d.den * 1000)

/-- `round_ties(num / den)`: the nearest integer, a tie settled by `ties` (R9). -/
def roundTies (ties : RoundTies) (num den : Nat) : Nat :=
  if 2 * (num % den) < den then num / den
  else if den < 2 * (num % den) then num / den + 1
  else match ties with
    | .toEven => num / den + num / den % 2
    | .awayFromZero => num / den + 1

/-- `clamp(v, lo, hi) = min(hi, max(lo, v))` (R9). -/
def clamp (v lo hi : Int) : Int := min hi (max lo v)

/-- `DIT_MS = 1200 / E.WPM` (R28). -/
def ditMs (wpm : Nat) : Millis := ⟨1200, wpm⟩

/-- `DAH_MS = 3 × DIT_MS` (R28). -/
def dahMs (wpm : Nat) : Millis := ⟨3 * 1200, wpm⟩

/-- `GAP_MS = DIT_MS` (R28). -/
def gapMs (wpm : Nat) : Millis := ditMs wpm

/-- The ramp duration: 5 ms if the dit is at least 50 ms, else a tenth of the dit (R53). -/
def rampMs (wpm : Nat) : Millis := if 50 * wpm ≤ 1200 then ⟨5, 1⟩ else ⟨1200, 10 * wpm⟩

/-- `E.SPC = round_ties(SR / hz)` (R58). -/
def samplesPerCycle (ties : RoundTies) (sr hz : Nat) : Nat := roundTies ties sr hz

/-- `max(1, round_ties(rampSamples / E.SPC))` with `rampSamples = rampMs × SR / 1000` (R53). -/
def rampCyclesOf (ties : RoundTies) (sr spc wpm : Nat) : Nat :=
  max 1 (roundTies ties ((rampMs wpm).num * sr) ((rampMs wpm).den * 1000 * spc))

/-- `E.GAIN = E.VOL / 100`, exact (R59). -/
def gainOf (vol : Nat) : Rat := (vol : Rat) / 100

end Sys2Proof.Machine
end

