-- ==== Sys2Proof/Machine/Patch.lean ====
section
/-! DEFINITION. The contents of the three patches (40_engine_config.md R54, R56). -/

namespace Sys2Proof.Machine

/-- `PATCH_VALUE(kind, n, SPC, L, G)` (R54): free bits (log 3) held to what R54 lets a model assume: (a) a function of the five arguments;
(b) a finite float32 of magnitude at most 1 (0x3f800000 is 1.0); (c) a float32 zero, of either sign, when G = 0. Every function that
meets (a) to (c) is one of these. -/
def patchValue (kind : PatchKind) (n spc l : Nat) (gain : Rat) : Sample :=
  if gain = 0 then Config.patchBits kind n spc l gain &&& 0x80000000#32
  else if Sample.magnitude (Config.patchBits kind n spc l gain) ≤ 0x3f800000#32 then Config.patchBits kind n spc l gain
  else silenceSample

/-- How many entries a patch has: CYCLE has E.SPC, the ramps have E.L (R22). -/
def patchLength : PatchKind → Nat → Nat → Nat
  | .cycle, spc, _ => spc
  | .rampUp, _, l => l
  | .rampDown, _, l => l

/-- A whole patch, as regeneration writes it (R54, R56). -/
def patch (kind : PatchKind) (spc l : Nat) (gain : Rat) : List Sample :=
  (List.range (patchLength kind spc l)).map (fun n => patchValue kind n spc l gain)

/-- Entry `n` of a patch's contents. Beyond the last entry the value is free (log 4). -/
def patchEntry (kind : PatchKind) (entries : List Sample) (n : Nat) : Sample :=
  entries.getD n (Config.strayPatchSample kind n)

end Sys2Proof.Machine
end

