-- ==== Sys2Proof/Machine/State.lean ====
section
/-! DEFINITION. Everything the spec gives the core (10_state.md), as plain data, and its reset (70_reset_and_hazards.md R134). -/

namespace Sys2Proof.Machine

/-- E.ENG_STATE (R23, D45; log 19). -/
inductive EngState where
  | silent
  | rampUp
  | sustain
  | rampDown
  | timedSilence
deriving DecidableEq, Repr

/-- A tone request: `Timed(n)` with n samples, or `Indefinite` (R64). -/
inductive Tone where
  | timed (n : Nat)
  | indefinite
deriving DecidableEq, Repr

/-- A queued silence: its samples, and those of its optional following tone (R23, R65). -/
structure QueuedSilence where
  samples : Nat
  following : Option Nat
deriving DecidableEq, Repr

/-- The engine's configuration registers (R21) and the three patches made from them (R22; stored, log 21). Counts are naturals
(R9, log 8). -/
structure Registers where
  /-- E.FREQ_HZ -/
  freqHz : Nat
  /-- E.SPC, samples per cycle -/
  spc : Nat
  /-- E.VOL, percent -/
  vol : Nat
  /-- E.GAIN -/
  gain : Rat
  /-- E.WPM -/
  wpm : Nat
  /-- E.RAMP_CYCLES -/
  rampCycles : Nat
  /-- E.L, the ramps' length in samples -/
  l : Nat
  /-- the CYCLE patch -/
  cycle : List Sample
  /-- the RAMP_UP patch -/
  rampUp : List Sample
  /-- the RAMP_DOWN patch -/
  rampDown : List Sample
deriving DecidableEq, Repr

/-- The engine's playback state (R23). Counts are naturals (R9, log 8). -/
structure Playback where
  /-- E.ENG_STATE -/
  engState : EngState
  /-- E.POS -/
  pos : Nat
  /-- E.SUSTAIN_LEFT -/
  sustainLeft : Nat
  /-- E.SILENCE_LEFT -/
  silenceLeft : Nat
  /-- E.INDEFINITE -/
  indefinite : Bool
  /-- E.Q_TONE -/
  qTone : Option Tone
  /-- E.Q_SIL -/
  qSil : Option QueuedSilence
  /-- E.BEFORE_END_FIRED -/
  beforeEndFired : Bool
  /-- E.START_PENDING -/
  startPending : Bool
  /-- E.COMPLETE_PENDING -/
  completePending : Bool
  /-- E.IDLE_PENDING -/
  idlePending : Bool
deriving DecidableEq, Repr

/-- K.KEY_STATE (R26, D45). -/
inductive KeyState where
  | idle
  | tonePlaying
  | interElementSpace
deriving DecidableEq, Repr

/-- K.ELEMENT (R26, D45). -/
inductive Element where
  | dit
  | dah
deriving DecidableEq, Repr

/-- The keyer (R26). -/
structure Keyer where
  /-- K.KEY_STATE -/
  keyState : KeyState
  /-- K.DIT -/
  dit : Bool
  /-- K.DAH -/
  dah : Bool
  /-- K.LATCH_DIT -/
  latchDit : Bool
  /-- K.LATCH_DAH -/
  latchDah : Bool
  /-- K.TONE_SNAP_DIT -/
  toneSnapDit : Bool
  /-- K.TONE_SNAP_DAH -/
  toneSnapDah : Bool
  /-- K.SIL_SNAP_DIT -/
  silSnapDit : Bool
  /-- K.SIL_SNAP_DAH -/
  silSnapDah : Bool
  /-- K.ELEMENT -/
  element : Element
  /-- K.MODE_B -/
  modeB : Bool
  /-- K.KEY_ASSERTED -/
  keyAsserted : Bool
  /-- K.TONE_ACTIVE -/
  toneActive : Bool
  /-- K.LAST_T -/
  lastT : Time
deriving DecidableEq, Repr

/-- One entry of the RADIO_KEY trace (R17, R19). -/
structure KeyEvent where
  asserted : Bool
  t : Time
deriving DecidableEq, Repr

/-- One operation the host presents: its word, its TIME sample, and the buffer passed with a READ (R17, R32, R138; log 5, log 7). -/
structure Command where
  word : CmdWord
  time : Time
  buffer : List Sample
deriving DecidableEq, Repr

/-- The machine. -/
structure State where
  /-- the parameters of R8 (log 1) -/
  cfg : Config
  /-- the engine's configuration registers and patches, E.FREQ_HZ to E.L (R21, R22) -/
  reg : Registers
  /-- the engine's playback state, E.ENG_STATE to E.IDLE_PENDING (R23) -/
  play : Playback
  /-- the keyer state K.* -/
  key : Keyer
  /-- CMD: the operations that wait for the lock, in the order they take it (R17, R37; log 5) -/
  input : List Command
  /-- TIME as last sampled, the `now` of the current operation (R18; log 6) -/
  time : Time
  /-- SAMPLES: the slots of the host's buffer of the current or last READ (R32; log 7) -/
  buf : List Sample
  /-- the sample stream: every sample emitted since reset, oldest first (R29, R80, R139; log 16) -/
  samples : List Sample
  /-- READ_RESULT; no value before the first READ (R134) -/
  readResult : Option Operand
  /-- the RADIO_KEY trace, oldest first (R19) -/
  radioKey : List KeyEvent
  /-- the IDLE trace, oldest first (R20) -/
  idle : List Time
deriving DecidableEq, Repr

/-- Why the machine stops: for no reason. The block has no fault, so no step of the model is one (R118, R120). -/
inductive Fault where
deriving DecidableEq, Repr

/-- Why the model has no step (R120, I20). -/
inductive Refusal where
  /-- Raised by nothing: every operation has its meaning. The host's interface names this constructor for one that has none. Safe. -/
  | notModelled (mnemonic : String)
  /-- Raised by `fetch` for an ill-formed word, which the block ignores and the model refuses (R49, R120). Safe (log 10). -/
  | illFormed (why : DecodeError)
  /-- Raised by `fetch` when TIME is lower than the previous operation's, a host duty broken (R18, R120). Safe (log 11). -/
  | timeDecreased
  /-- Raised by READ when the host's buffer has fewer than `count` slots, a host duty broken (R32, R138, I20). Safe (log 7). -/
  | bufferTooShort
  /-- Raised by `State.build` for a parameter outside its admitted range (R120, R134, I22). Safe (log 1). -/
  | parameterOutOfRange
deriving DecidableEq, Repr

/-- The configuration registers after reset, for a cycle of `spc` samples and ramps of `cycles` cycles (R134). -/
def Registers.resetFor (c : Config) (spc cycles : Nat) : Registers where
  freqHz := c.resetFreqHz
  spc := spc
  vol := c.resetVolume
  gain := gainOf c.resetVolume
  wpm := c.resetWpm
  rampCycles := cycles
  l := cycles * spc
  cycle := patch .cycle spc (cycles * spc) (gainOf c.resetVolume)
  rampUp := patch .rampUp spc (cycles * spc) (gainOf c.resetVolume)
  rampDown := patch .rampDown spc (cycles * spc) (gainOf c.resetVolume)

/-- The configuration registers after reset (R134): E.SPC per R58 and E.RAMP_CYCLES per R53, from the reset values. -/
def Registers.reset (c : Config) : Registers :=
  Registers.resetFor c (samplesPerCycle c.roundTies c.sr c.resetFreqHz)
    (rampCyclesOf c.roundTies c.sr (samplesPerCycle c.roundTies c.sr c.resetFreqHz) c.resetWpm)

/-- The playback state after reset (R134), and after SWAP_ENGINE (R105). -/
def Playback.reset : Playback where
  engState := .silent
  pos := 0
  sustainLeft := 0
  silenceLeft := 0
  indefinite := false
  qTone := none
  qSil := none
  beforeEndFired := false
  startPending := false
  completePending := false
  idlePending := false

/-- The keyer after reset at TIME `t0` (R134). -/
def Keyer.reset (c : Config) (t0 : Time) : Keyer where
  keyState := .idle
  dit := false
  dah := false
  latchDit := false
  latchDah := false
  toneSnapDit := false
  toneSnapDah := false
  silSnapDit := false
  silSnapDah := false
  element := .dit
  modeB := c.resetModeB
  keyAsserted := false
  toneActive := false
  lastT := t0

/-- The machine right after reset at TIME `t0`, for the parameters `c` (R134). No operation waits, and no READ has given a buffer. -/
def State.resetWith (c : Config) (t0 : Time) : State where
  cfg := c
  reg := Registers.reset c
  play := Playback.reset
  key := Keyer.reset c t0
  input := []
  time := t0
  buf := []
  samples := []
  readResult := none
  radioKey := []
  idle := []

/-- Build the machine: a parameter outside its admitted range is refused (R120, R134, I22). -/
def State.build (c : Config) (t0 : Time) : Except Refusal State :=
  if c.Admitted then .ok (State.resetWith c t0) else .error .parameterOutOfRange

/-- The machine right after reset, at the default parameters (R8, R134). DESIGN CHOICE: t0 = 0 (log 2). -/
def State.reset : State := State.resetWith Config.default 0#64

end Sys2Proof.Machine
end

