-- ==== Sys2Proof/Machine/Operands.lean ====
section
/-! DEFINITION. The operand forms of a command word (30_encoding.md R45). -/

namespace Sys2Proof.Machine

/-- `sext_24(A)`: the operand of SET_FREQUENCY, SET_VOLUME and SET_WPM (R45). -/
def signedOperand (a : Operand) : Int := a.toInt

/-- `zext_24` of A or B as a duration: u µs are u / 1000 ms (R45). -/
def durationOperand (a : Operand) : Millis := usMillis a.toNat

/-- `zext_24(A)` as the count of READ (R45). -/
def countOperand (a : Operand) : Nat := a.toNat

/-- The optional following tone of QUEUE_SILENCE: B when P0 = 1 (R45, R71; log 18). -/
def followingOperand (follow : Bool) (b : Operand) : Option Millis := if follow then some (durationOperand b) else none

end Sys2Proof.Machine
end

