-- ==== Sys2Proof/Machine/Ops.lean ====
section
/-! DEFINITION. The shared operations of the rules: on the engine (R53, R56, R63 to R68, R74, R75), on the host's buffer (R32) and on the
output ports (R19, R20). The engine's commands change the playback state alone (R27). -/

namespace Sys2Proof.Machine

/-! ### Configuration -/

/-- `recomputeRamp()` (R53). -/
def Registers.recomputeRamp (c : Config) (r : Registers) : Registers :=
  { r with
    rampCycles := rampCyclesOf c.roundTies c.sr r.spc r.wpm
    l := rampCyclesOf c.roundTies c.sr r.spc r.wpm * r.spc }

/-- `regen()`: all three patches from E.SPC, E.L and E.GAIN (R56). -/
def Registers.regen (r : Registers) : Registers :=
  { r with
    cycle := patch .cycle r.spc r.l r.gain
    rampUp := patch .rampUp r.spc r.l r.gain
    rampDown := patch .rampDown r.spc r.l r.gain }

/-! ### Playback -/

/-- `sustainFor(n) = max(0, n − 2·E.L) div E.SPC` (R63). -/
def Registers.sustainFor (r : Registers) (n : Nat) : Nat := (n - 2 * r.l) / r.spc

/-- `beginTone(t)` (R64). -/
def Playback.beginTone (r : Registers) (p : Playback) (t : Tone) : Playback :=
  { p with
    engState := .rampUp
    pos := 0
    startPending := true
    idlePending := false
    indefinite := match t with
      | .timed _ => false
      | .indefinite => true
    sustainLeft := match t with
      | .timed n => r.sustainFor n
      | .indefinite => 0 }

/-- `beginSilence(n, f)` (R65); `f = none` leaves E.Q_TONE unchanged. -/
def Playback.beginSilence (p : Playback) (q : QueuedSilence) : Playback :=
  { p with
    engState := .timedSilence
    pos := 0
    silenceLeft := q.samples
    beforeEndFired := false
    qSil := none
    idlePending := false
    qTone := match q.following with
      | some m => some (.timed m)
      | none => p.qTone }

/-- The RampDown index at which a cut enters (R66). -/
def Playback.cutIndex (r : Registers) (p : Playback) : Nat :=
  match p.engState with
  | .rampUp =>
    r.l - r.spc * (min p.pos (r.l - 1) / r.spc + 1) + min p.pos (r.l - 1) % r.spc
  | _ => p.pos % r.spc

/-- `cutToRampDown()` (R66). -/
def Playback.cutToRampDown (r : Registers) (p : Playback) : Playback :=
  { p with pos := p.cutIndex r, engState := .rampDown, indefinite := false, sustainLeft := 0 }

/-- `abandonTone()` (R67). -/
def Playback.abandonTone (p : Playback) : Playback :=
  { p with
    completePending := p.completePending || !p.startPending
    startPending := false
    indefinite := false
    sustainLeft := 0
    pos := 0 }

/-- `toneRequest(t)`, the body of START_TONE and START_INDEFINITE_TONE (R68). -/
def Playback.toneRequest (r : Registers) (p : Playback) (t : Tone) : Playback :=
  match p.engState with
  | .timedSilence => { p with qTone := some t }
  | .silent => { p with qSil := none, qTone := none }.beginTone r t
  | .rampUp =>
    if p.startPending then { p with qSil := none, qTone := none }.beginTone r t
    else { { p with qSil := none }.cutToRampDown r with qTone := some t }
  | .sustain => { { p with qSil := none }.cutToRampDown r with qTone := some t }
  | .rampDown => { p with qSil := none, qTone := some t }

/-- Whether a tone is active: RampUp, Sustain or RampDown (R24, R67). -/
def EngState.isTone : EngState → Bool
  | .rampUp => true
  | .sustain => true
  | .rampDown => true
  | .silent => false
  | .timedSilence => false

/-- START_SILENCE_THEN_TONE's effect: `n` samples of silence, then a tone of `m` (R70). -/
def Playback.silenceThenTone (p : Playback) (n m : Nat) : Playback :=
  (if p.engState.isTone then p.abandonTone else p).beginSilence ⟨n, some m⟩

/-- QUEUE_SILENCE's effect (R71). -/
def Playback.queueSilence (p : Playback) (q : QueuedSilence) : Playback :=
  match p.engState with
  | .silent => p.beginSilence q
  | _ => { p with qSil := some q }

/-- Both queues emptied. -/
def Playback.clearQueues (p : Playback) : Playback := { p with qTone := none, qSil := none }

/-- The Graceful policy's step in a tone state whose start has fired (R74). -/
def Playback.gracefulStop (r : Registers) (p : Playback) : Playback :=
  match p.engState with
  | .rampDown => { p with indefinite := false }
  | _ => p.cutToRampDown r

/-- The Truncate policy's step in a tone state whose start has fired (R75). -/
def Playback.truncateStop (p : Playback) : Playback :=
  { p.abandonTone with engState := .silent, pos := 0, idlePending := true }

/-- The policy step of ENGINE_STOP (R73). -/
def Playback.policyStop (policy : StopPolicy) (r : Registers) (p : Playback) : Playback :=
  match policy with
  | .graceful => p.gracefulStop r
  | .truncate => p.truncateStop

/-- A tone never heard is dropped (R73, the RampUp case with E.START_PENDING = 1). -/
def Playback.dropUnheard (p : Playback) : Playback :=
  { p with
    startPending := false
    engState := .silent
    pos := 0
    indefinite := false
    sustainLeft := 0
    idlePending := true }

/-- A silence is ended at once (R73, the TimedSilence case). -/
def Playback.dropSilence (p : Playback) : Playback :=
  { p with engState := .silent, silenceLeft := 0, beforeEndFired := false, idlePending := true }

/-- ENGINE_STOP's effect under a policy (R73). -/
def Playback.stop (policy : StopPolicy) (r : Registers) (p : Playback) : Playback :=
  match p.engState with
  | .silent => p.clearQueues
  | .timedSilence => p.clearQueues.dropSilence
  | .rampUp => if p.startPending then p.clearQueues.dropUnheard else p.clearQueues.policyStop policy r
  | .sustain => p.clearQueues.policyStop policy r
  | .rampDown => p.clearQueues.policyStop policy r

/-- What follows in Silent, when the handler has started nothing: the queued silence, else the queued tone, else OnBecomeIdle is owed
(R82, R84). -/
def Playback.startNext (r : Registers) (p : Playback) : Playback :=
  match p.engState with
  | .silent =>
    match p.qSil with
    | some q => p.beginSilence q
    | none =>
      match p.qTone with
      | some t => { p with qTone := none }.beginTone r t
      | none => { p with idlePending := true }
  | _ => p

/-! ### The host's buffer and the output ports -/

/-- `MemWrite(buf, i, v)` (R12, R32). -/
def memWrite (buf : List Sample) (i : Nat) (v : Sample) : List Sample := buf.set i v

/-- Slot `i` of the host's buffer, none when the host gave no such slot. -/
def State.slot (s : State) (i : Nat) : Option Sample := s.buf[i]?

/-- `emitKey(a)` (R12, R19). -/
def State.emitKey (s : State) (a : Bool) : State :=
  { s with radioKey := s.radioKey ++ if s.cfg.radioPresent then [⟨a, s.time⟩] else [] }

/-- `emitIdle()` (R12, R20). -/
def State.emitIdle (s : State) : State := { s with idle := s.idle ++ [s.time] }

/-- The calls `sendRadioKey(asserted, _, clientHandle)` behind the RADIO_KEY trace, CLIENT_HANDLE passed unchanged (R19; log 16). -/
def State.radioCalls (s : State) : List (Bool × Time × BitVec 32) :=
  s.radioKey.map (fun e => (e.asserted, e.t, s.cfg.clientHandle))

/-- The state with playback state `p`: the one way an operation inside a step changes it. -/
def State.setPlay (s : State) (p : Playback) : State := { s with play := p }

/-- The state with keyer `k`. -/
def State.setKey (s : State) (k : Keyer) : State := { s with key := k }

/-! ### Engine commands as the host and the handlers issue them (R48, R69, R71, R73) -/

/-- START_TONE of `d` ms (R69). -/
def State.startTone (s : State) (d : Millis) : State :=
  s.setPlay (s.play.toneRequest s.reg (.timed (toSamples s.cfg.sr d)))

/-- QUEUE_SILENCE of `d` ms with an optional following tone (R71). -/
def State.queueSilence (s : State) (d : Millis) (f : Option Millis) : State :=
  s.setPlay (s.play.queueSilence ⟨toSamples s.cfg.sr d, f.map (toSamples s.cfg.sr)⟩)

/-- ENGINE_STOP under the policy of the parameters (R73). -/
def State.engineStop (s : State) : State := s.setPlay (s.play.stop s.cfg.stopPolicy s.reg)

end Sys2Proof.Machine
end

