-- ==== Sys2Proof/Machine/EngineCommands.lean ====
section
/-! DEFINITION. START_TONE, START_SILENCE_THEN_TONE, QUEUE_SILENCE, START_INDEFINITE_TONE and ENGINE_STOP (41_engine_commands.md R69 to R75). -/

namespace Sys2Proof.Machine

/-- START_TONE (R69). -/
def execStartTone (us : Operand) (s : State) : Host.Outcome State Fault Refusal :=
  .next (s.startTone (durationOperand us))

/-- START_SILENCE_THEN_TONE (R70). -/
def execStartSilenceThenTone (us ut : Operand) (s : State) : Host.Outcome State Fault Refusal :=
  .next (s.setPlay
    (s.play.silenceThenTone (toSamples s.cfg.sr (durationOperand us)) (toSamples s.cfg.sr (durationOperand ut))))

/-- QUEUE_SILENCE (R71). -/
def execQueueSilence (us : Operand) (follow : Bool) (ut : Operand) (s : State) : Host.Outcome State Fault Refusal :=
  .next (s.queueSilence (durationOperand us) (followingOperand follow ut))

/-- START_INDEFINITE_TONE (R72). -/
def execStartIndefiniteTone (s : State) : Host.Outcome State Fault Refusal :=
  .next (s.setPlay (s.play.toneRequest s.reg .indefinite))

/-- ENGINE_STOP (R73). -/
def execEngineStop (s : State) : Host.Outcome State Fault Refusal := .next s.engineStop

end Sys2Proof.Machine
end

