-- ==== Sys2Proof/Machine/EngineConfig.lean ====
section
/-! DEFINITION. SET_FREQUENCY, SET_VOLUME and SET_WPM (40_engine_config.md R58 to R60). -/

namespace Sys2Proof.Machine

/-- SET_FREQUENCY of an accepted `hz` (R58). -/
def Registers.setFrequency (c : Config) (r : Registers) (hz : Nat) : Registers :=
  ({ r with freqHz := hz, spc := samplesPerCycle c.roundTies c.sr hz }.recomputeRamp c).regen

/-- SET_FREQUENCY (R58): outside 100..2000 nothing changes. -/
def execSetFrequency (hz : Operand) (s : State) : Host.Outcome State Fault Refusal :=
  if 100 ≤ signedOperand hz ∧ signedOperand hz ≤ 2000 then
    .next { s with reg := s.reg.setFrequency s.cfg (signedOperand hz).toNat }
  else .next s

/-- SET_VOLUME of a clamped percentage (R59). -/
def Registers.setVolume (r : Registers) (vol : Nat) : Registers := { r with vol := vol, gain := gainOf vol }.regen

/-- SET_VOLUME (R59). -/
def execSetVolume (pct : Operand) (s : State) : Host.Outcome State Fault Refusal :=
  .next { s with reg := s.reg.setVolume (clamp (signedOperand pct) 0 100).toNat }

/-- SET_WPM of a clamped speed (R60). -/
def Registers.setWpm (c : Config) (r : Registers) (wpm : Nat) : Registers := ({ r with wpm := wpm }.recomputeRamp c).regen

/-- SET_WPM (R60). -/
def execSetWpm (wpm : Operand) (s : State) : Host.Outcome State Fault Refusal :=
  .next { s with reg := s.reg.setWpm s.cfg (clamp (signedOperand wpm) 5 60).toNat }

end Sys2Proof.Machine
end

