-- ==== Sys2Proof/Machine/Flags.lean ====
section
/-! DEFINITION. The status flags of the keyer (10_state.md R30): the latches, the snapshots, and the watchdog's condition. -/

namespace Sys2Proof.Machine

/-- A paddle that is newly pressed: live value 0 before, 1 now, and not held at the reference snapshot (R98). -/
def newlyPressed (now old ref : Bool) : Bool := now && !old && !ref

/-- `latchEdges(oldD, oldH, refD, refH)` (R98). -/
def Keyer.latchEdges (k : Keyer) (oldD oldH refD refH : Bool) : Keyer :=
  { k with
    latchDit := k.latchDit || newlyPressed k.dit oldD refD
    latchDah := k.latchDah || newlyPressed k.dah oldH refH }

/-- Both latches cleared. -/
def Keyer.clearLatches (k : Keyer) : Keyer := { k with latchDit := false, latchDah := false }

/-- Both snapshots cleared. -/
def Keyer.clearSnapshots (k : Keyer) : Keyer :=
  { k with toneSnapDit := false, toneSnapDah := false, silSnapDit := false, silSnapDah := false }

/-- TONE_SNAP takes the live paddles (R99, R106). -/
def Keyer.captureToneSnap (k : Keyer) : Keyer := { k with toneSnapDit := k.dit, toneSnapDah := k.dah }

/-- SIL_SNAP takes the live paddles (R107). -/
def Keyer.captureSilSnap (k : Keyer) : Keyer := { k with silSnapDit := k.dit, silSnapDah := k.dah }

/-- The watchdog's threshold, 1000 ms in µs (R8, R101). -/
def watchdogMicros : Nat := 1000000

/-- The watchdog's condition: not Idle, and more than the threshold since K.LAST_T (R101, D28). The difference is taken on naturals (log 13). -/
def Keyer.watchdogTrips (k : Keyer) (now : Time) : Bool :=
  k.keyState != .idle && decide (watchdogMicros < now.toNat - k.lastT.toNat)

end Sys2Proof.Machine
end

