-- ==== Sys2Proof/Machine/Handlers.lean ====
section
/-! DEFINITION. The keyer's shared operations and its four event handlers (43_keyer.md R96 to R101, R106 to R111), and `fire`, which delivers an
event (R86): what this core has in place of taking an exception (R121, R123). -/

namespace Sys2Proof.Machine

/-- The engine's five events (R13, R121). -/
inductive Event where
  | toneStart
  | toneComplete
  | beforeSilenceEnd
  | silenceComplete
  | becomeIdle
deriving DecidableEq, Repr

/-- `opposite(e)` (R96). -/
def Element.opposite : Element → Element
  | .dit => .dah
  | .dah => .dit

/-- `pressed(e)` (R96). -/
def Keyer.pressed (k : Keyer) : Element → Bool
  | .dit => k.dit
  | .dah => k.dah

/-- `latch(e)` (R96). -/
def Keyer.latch (k : Keyer) : Element → Bool
  | .dit => k.latchDit
  | .dah => k.latchDah

/-- `silSnap(e)` (R96). -/
def Keyer.silSnap (k : Keyer) : Element → Bool
  | .dit => k.silSnapDit
  | .dah => k.silSnapDah

/-- `ms(e)` at the current E.WPM (R28, R96). -/
def elementMs (wpm : Nat) : Element → Millis
  | .dit => ditMs wpm
  | .dah => dahMs wpm

/-- `setKeyState(s)`: the state, and K.LAST_T ← now (R97). -/
def Keyer.setKeyState (k : Keyer) (st : KeyState) (now : Time) : Keyer := { k with keyState := st, lastT := now }

/-- Rule (1): the opposite paddle is pressed or was latched (R109). -/
def Keyer.alternates (k : Keyer) : Bool := k.pressed k.element.opposite || k.latch k.element.opposite

/-- Rule (2): the same paddle was held at the silence start or is pressed (R109). -/
def Keyer.repeats (k : Keyer) : Bool := k.silSnap k.element || k.pressed k.element

/-- Rule (3): Mode B, both held at the tone's start, both released now (R109). -/
def Keyer.completesSqueeze (k : Keyer) : Bool := k.modeB && k.toneSnapDit && k.toneSnapDah && !k.dit && !k.dah

/-- `decide()`: the next element, or none (R109). -/
def Keyer.decideNext (k : Keyer) : Option Element :=
  if k.alternates then some k.element.opposite
  else if k.repeats then some k.element
  else if k.completesSqueeze then some k.element.opposite
  else none

/-- The keyer's part of `startFromIdle(e)` (R99). -/
def Keyer.beginElement (k : Keyer) (e : Element) (now : Time) : Keyer :=
  ({ k.captureToneSnap.clearLatches with
      element := e, silSnapDit := false, silSnapDah := false, toneActive := false }).setKeyState .tonePlaying now

/-- `startFromIdle(e)` (R99). -/
def State.startFromIdle (s : State) (e : Element) : State :=
  (s.setKey (s.key.beginElement e s.time)).startTone (elementMs s.reg.wpm e)

/-- The keyer's part of `keyerStop()` (R100). -/
def Keyer.stopped (k : Keyer) (now : Time) : Keyer :=
  ({ k.clearLatches.clearSnapshots with keyAsserted := false, toneActive := false }).setKeyState .idle now

/-- `keyerStop()`: a key-up in every case, the keyer Idle, the engine stopped (R100). -/
def State.keyerStop (s : State) : State :=
  ((s.setKey (s.key.stopped s.time)).emitKey false).engineStop

/-- The keyer's part of the handler for OnToneStart (R106). -/
def Keyer.startTone (k : Keyer) (now : Time) : Keyer :=
  ({ k.captureToneSnap with toneActive := true, keyAsserted := true }).setKeyState .tonePlaying now

/-- The handler for OnToneStart (R106): it acts only when the keyer is not Idle. -/
def State.onToneStart (s : State) : State :=
  match s.key.keyState with
  | .idle => s
  | _ => (s.setKey (s.key.startTone s.time)).emitKey true

/-- The keyer's part of the handler for OnToneComplete (R107). -/
def Keyer.completeTone (clear : Bool) (k : Keyer) (now : Time) : Keyer :=
  ({ (if clear then k.captureSilSnap.clearLatches else k.captureSilSnap) with
      keyAsserted := false, toneActive := false }).setKeyState .interElementSpace now

/-- The handler for OnToneComplete (R107): it acts only for the keyer's own started element. -/
def State.onToneComplete (s : State) : State :=
  if s.key.keyState = .tonePlaying ∧ s.key.toneActive = true then
    ((s.setKey (s.key.completeTone s.cfg.latchClearAtToneComplete s.time)).emitKey false).queueSilence
      (gapMs s.reg.wpm) none
  else s

/-- The handler for OnBeforeSilenceEnd, the decision point (R108). -/
def State.onBeforeSilenceEnd (s : State) : State :=
  match s.key.keyState with
  | .interElementSpace =>
    match s.key.decideNext with
    | some e => (s.setKey { s.key.clearLatches with element := e }).startTone (elementMs s.reg.wpm e)
    | none => s
  | _ => s

/-- The handler for OnSilenceComplete (R110). -/
def State.onSilenceComplete (s : State) : State :=
  match s.key.keyState with
  | .interElementSpace => s.setKey (s.key.clearLatches.setKeyState .idle s.time)
  | _ => s

/-- `fire Ev`: the synchronous call of the event's handler (R12, R86); OnBecomeIdle goes to the IDLE port (R111; log 15). -/
def State.fire (s : State) : Event → State
  | .toneStart => s.onToneStart
  | .toneComplete => s.onToneComplete
  | .beforeSilenceEnd => s.onBeforeSilenceEnd
  | .silenceComplete => s.onSilenceComplete
  | .becomeIdle => s.emitIdle

end Sys2Proof.Machine
end

