-- ==== Sys2Proof/Machine/Keyer.lean ====
section
/-! DEFINITION. UPDATE_PADDLE, STOP, SET_MODE_B and SWAP_ENGINE (43_keyer.md R102 to R105). -/

namespace Sys2Proof.Machine

/-- The watchdog's check, made before the new paddle values are taken (R101, R102). -/
def State.watchdog (s : State) : State := if s.key.watchdogTrips s.time then s.keyerStop else s

/-- K.DIT and K.DAH take the operands (R102). -/
def Keyer.setPaddles (k : Keyer) (d h : Bool) : Keyer := { k with dit := d, dah := h }

/-- The live paddle values `d` and `h` are taken, and an edge latches or an element starts (R102). -/
def State.takePaddles (s : State) (d h : Bool) : State :=
  match s.key.keyState with
  | .idle =>
    if d || h then (s.setKey (s.key.setPaddles d h)).startFromIdle (if d then .dit else .dah)
    else s.setKey (s.key.setPaddles d h)
  | .tonePlaying =>
    s.setKey ((s.key.setPaddles d h).latchEdges s.key.dit s.key.dah s.key.toneSnapDit s.key.toneSnapDah)
  | .interElementSpace =>
    s.setKey ((s.key.setPaddles d h).latchEdges s.key.dit s.key.dah s.key.silSnapDit s.key.silSnapDah)

/-- UPDATE_PADDLE (R102). -/
def execUpdatePaddle (d h : Bool) (s : State) : Host.Outcome State Fault Refusal := .next (s.watchdog.takePaddles d h)

/-- STOP (R103). -/
def execStop (s : State) : Host.Outcome State Fault Refusal := .next s.keyerStop

/-- SET_MODE_B (R104). -/
def execSetModeB (b : Bool) (s : State) : Host.Outcome State Fault Refusal :=
  .next (s.setKey { s.key with modeB := b })

/-- SWAP_ENGINE: every playback field takes its reset value; registers, patches and keyer stay (R105). -/
def execSwapEngine (s : State) : Host.Outcome State Fault Refusal := .next (s.setPlay Playback.reset)

end Sys2Proof.Machine
end

