-- ==== Sys2Proof/Machine/Settle.lean ====
section
/-! DEFINITION. Settling and emitting (42_engine_read.md R80 to R84): the state machine READ runs. -/

namespace Sys2Proof.Machine

/-- The zero-time actions of one pass of settle's loop (R81). -/
inductive SettleAction where
  /-- an abandoned tone's OnToneComplete is delivered -/
  | deliverAbandoned
  /-- the owed OnBecomeIdle is delivered -/
  | deliverIdle
  /-- the owed OnToneStart is delivered -/
  | deliverStart
  /-- the ramp-up is exhausted -/
  | rampUpDone
  /-- every sustain cycle has been played -/
  | sustainDone
  /-- one cycle has been played -/
  | cycleDone
  /-- the ramp-down is exhausted: `toneEnd()` (R82) -/
  | toneEnd
  /-- OnBeforeSilenceEnd is delivered (R83) -/
  | deliverBeforeEnd
  /-- the silence's countdown is zero: `silenceEnd()` (R84) -/
  | silenceEnd
deriving DecidableEq, Repr

/-- The first check of R81, in the order written, that holds; none when settle returns. -/
def Playback.settleAction (r : Registers) (lead : Nat) (p : Playback) : Option SettleAction :=
  if p.completePending then some .deliverAbandoned
  else match p.engState with
    | .silent => if p.idlePending then some .deliverIdle else none
    | .rampUp =>
      if p.startPending then some .deliverStart
      else if r.l ≤ p.pos then some .rampUpDone
      else none
    | .sustain =>
      if p.indefinite = false ∧ p.sustainLeft = 0 then some .sustainDone
      else if r.spc ≤ p.pos then some .cycleDone
      else none
    | .rampDown => if r.l ≤ p.pos then some .toneEnd else none
    | .timedSilence =>
      if p.beforeEndFired = false ∧ p.silenceLeft ≤ lead then some .deliverBeforeEnd
      else if p.silenceLeft = 0 then some .silenceEnd
      else none

/-- Where a ramp-up leads: Sustain when there is something to sustain, else RampDown (R81). -/
def Playback.afterRampUp (p : Playback) : Playback :=
  { p with pos := 0, engState := if p.indefinite ∨ 0 < p.sustainLeft then .sustain else .rampDown }

/-- One cycle of Sustain has been played (R81). -/
def Playback.nextCycle (p : Playback) : Playback :=
  { p with pos := 0, sustainLeft := if p.indefinite then p.sustainLeft else p.sustainLeft - 1 }

/-- The engine becomes Silent at the end of a ramp-down (R82). -/
def Playback.enterSilent (p : Playback) : Playback :=
  { p with engState := .silent, pos := 0, indefinite := false, sustainLeft := 0 }

/-- The owed OnToneComplete is taken. -/
def Playback.ackComplete (p : Playback) : Playback := { p with completePending := false }

/-- The owed OnBecomeIdle is taken. -/
def Playback.ackIdle (p : Playback) : Playback := { p with idlePending := false }

/-- The owed OnToneStart is taken. -/
def Playback.ackStart (p : Playback) : Playback := { p with startPending := false }

/-- OnBeforeSilenceEnd has fired for this silence (R83). -/
def Playback.ackBeforeEnd (p : Playback) : Playback := { p with beforeEndFired := true }

/-- Sustain is over (R81). -/
def Playback.endSustain (p : Playback) : Playback := { p with pos := 0, engState := .rampDown }

/-- The engine becomes Silent at the end of a silence with nothing queued (R84). -/
def Playback.endSilence (p : Playback) : Playback :=
  { p with engState := .silent, silenceLeft := 0, beforeEndFired := false }

/-- `silenceEnd()` up to its event: the queued tone begins first, else the queued silence, else the engine becomes Silent (R84). -/
def Playback.leaveSilence (r : Registers) (p : Playback) : Playback :=
  match p.qTone with
  | some t => { p with qTone := none }.beginTone r t
  | none =>
    match p.qSil with
    | some q => p.beginSilence q
    | none => p.endSilence

/-- What an action does to the playback state before its event is fired (R81, R82, R84). -/
def Playback.prepare (r : Registers) (p : Playback) : SettleAction → Playback
  | .deliverAbandoned => p.ackComplete
  | .deliverIdle => p.ackIdle
  | .deliverStart => p.ackStart
  | .rampUpDone => p.afterRampUp
  | .sustainDone => p.endSustain
  | .cycleDone => p.nextCycle
  | .toneEnd => p.enterSilent
  | .deliverBeforeEnd => p.ackBeforeEnd
  | .silenceEnd => p.leaveSilence r

/-- The event an action fires, if any (R81, R82, R84, R90). -/
def Playback.delivers (p : Playback) : SettleAction → Option Event
  | .deliverAbandoned => some .toneComplete
  | .deliverIdle => some .becomeIdle
  | .deliverStart => some .toneStart
  | .rampUpDone => none
  | .sustainDone => none
  | .cycleDone => none
  | .toneEnd => some .toneComplete
  | .deliverBeforeEnd => some .beforeSilenceEnd
  | .silenceEnd => if p.qTone = none ∧ p.qSil = none then some .silenceComplete else none

/-- Fire an event, if there is one. -/
def State.fireOption (s : State) : Option Event → State
  | none => s
  | some ev => s.fire ev

/-- What an action does after its event: at the end of a tone or of a silence, if the engine is still Silent, what is queued begins or
OnBecomeIdle is owed (R82, R84). -/
def State.conclude (s : State) : SettleAction → State
  | .toneEnd => s.setPlay (s.play.startNext s.reg)
  | .silenceEnd => s.setPlay (s.play.startNext s.reg)
  | _ => s

/-- One pass of settle's loop: the action's change, its event, and what follows (R81). -/
def State.perform (s : State) (a : SettleAction) : State :=
  ((s.setPlay (s.play.prepare s.reg a)).fireOption (s.play.delivers a)).conclude a

/-- At most `fuel` passes of settle's loop (R81). -/
def State.settleWithin : Nat → State → State
  | 0, s => s
  | fuel + 1, s =>
    match s.play.settleAction s.reg s.cfg.lead with
    | none => s
    | some a => (s.perform a).settleWithin fuel

/-- The passes one settle is given. With patches of positive length the loop has returned by then (R93, log 9). -/
def settlePasses : Nat := 8

/-- `settle()` (R81). -/
def State.settle (s : State) : State := s.settleWithin settlePasses

/-- The sample `emit()` returns (R80). -/
def Playback.currentSample (r : Registers) (p : Playback) : Sample :=
  match p.engState with
  | .silent => silenceSample
  | .timedSilence => silenceSample
  | .rampUp => patchEntry .rampUp r.rampUp p.pos
  | .sustain => patchEntry .cycle r.cycle p.pos
  | .rampDown => patchEntry .rampDown r.rampDown p.pos

/-- The sequencing state after `emit()` (R80). -/
def Playback.advance (p : Playback) : Playback :=
  match p.engState with
  | .silent => p
  | .timedSilence => { p with silenceLeft := p.silenceLeft - 1 }
  | .rampUp => { p with pos := p.pos + 1 }
  | .sustain => { p with pos := p.pos + 1 }
  | .rampDown => { p with pos := p.pos + 1 }

/-- `MemWrite(buf, i, emit())`: the sample goes into slot `i`, and with that into the sample stream (R79, R80, R139). -/
def State.emitInto (s : State) (i : Nat) : State :=
  { s with
    play := s.play.advance
    buf := memWrite s.buf i (s.play.currentSample s.reg)
    samples := s.samples ++ [s.play.currentSample s.reg] }

/-- One turn of READ's loop: settle, then emit into slot `i` (R79). -/
def State.readSlot (s : State) (i : Nat) : State := s.settle.emitInto i

/-- READ's loop: `n` turns, from slot `i` on (R79). -/
def State.readSlots : Nat → Nat → State → State
  | 0, _, s => s
  | n + 1, i, s => State.readSlots n (i + 1) (s.readSlot i)

end Sys2Proof.Machine
end

