-- ==== Sys2Proof/Machine/Read.lean ====
section
/-! DEFINITION. READ (42_engine_read.md R79). -/

namespace Sys2Proof.Machine

/-- READ's effect on a buffer of enough slots: `n` turns of the loop, and one more settle (R79). -/
def State.readSamples (s : State) (n : Nat) : State := (State.readSlots n 0 s).settle

/-- READ (R79). A buffer of fewer than `count` slots is a host duty broken (R138, I20). -/
def execRead (count : Operand) (s : State) : Host.Outcome State Fault Refusal :=
  if s.buf.length < countOperand count then .refused .bufferTooShort
  else .next { s.readSamples (countOperand count) with readResult := some count }

end Sys2Proof.Machine
end

