-- ==== Sys2Proof/Machine/Dispatch.lean ====
section
/-! DEFINITION. One arm per operation of R46. -/

namespace Sys2Proof.Machine

def exec (i : Instr) (s : State) : Host.Outcome State Fault Refusal :=
  match i with
  | .setFrequency hz => Sys2Proof.Machine.execSetFrequency hz s
  | .setVolume pct => Sys2Proof.Machine.execSetVolume pct s
  | .setWpm wpm => Sys2Proof.Machine.execSetWpm wpm s
  | .setModeB b => Sys2Proof.Machine.execSetModeB b s
  | .startTone us => Sys2Proof.Machine.execStartTone us s
  | .startSilenceThenTone us ut => Sys2Proof.Machine.execStartSilenceThenTone us ut s
  | .queueSilence us follow ut => Sys2Proof.Machine.execQueueSilence us follow ut s
  | .startIndefiniteTone => Sys2Proof.Machine.execStartIndefiniteTone s
  | .engineStop => Sys2Proof.Machine.execEngineStop s
  | .updatePaddle dit dah => Sys2Proof.Machine.execUpdatePaddle dit dah s
  | .stop => Sys2Proof.Machine.execStop s
  | .read count => Sys2Proof.Machine.execRead count s
  | .swapEngine => Sys2Proof.Machine.execSwapEngine s

end Sys2Proof.Machine
end

