-- ==== Sys2Proof/Machine/Fetch.lean ====
section
/-! DEFINITION. How an operation comes to run: the host's operations take the lock in the order of `input` (20_memory.md R37), each with its
TIME sample (10_state.md R18). -/

namespace Sys2Proof.Machine

/-- What the head of `input` leads to. -/
inductive Fetched where
  /-- no operation waits -/
  | quiet
  /-- the operation is refused (R120) -/
  | refused (why : Refusal)
  /-- the operation runs at a state that has taken it -/
  | run (i : Instr) (s : State)
deriving DecidableEq, Repr

/-- The buffer an operation's step works on: READ brings its own (R32, R138), any other operation touches none. -/
def bufferFor (i : Instr) (given held : List Sample) : List Sample :=
  match i with
  | .read _ => given
  | _ => held

/-- The state that has taken operation `i` from command `c`: `now` is the command's TIME, sampled once (R18). -/
def State.accept (s : State) (i : Instr) (c : Command) (rest : List Command) : State :=
  { s with input := rest, time := c.time, buf := bufferFor i c.buffer s.buf }

/-- Take the next operation. A TIME below the previous one is refused (R120.2), and so is an ill-formed word (R49, R120.1). -/
def fetch (s : State) : Fetched :=
  match s.input with
  | [] => .quiet
  | c :: rest =>
    if c.time.toNat < s.time.toNat then .refused .timeDecreased
    else match decode c.word with
      | .error why => .refused (.illFormed why)
      | .ok i => .run i (s.accept i c rest)

/-- The slots a word asks for: its count if it is a READ, else none. -/
def slotsFor (w : CmdWord) : Nat := if opField w = 0x30#8 then (aField w).toNat else 0

/-- The command that presents a word at the current TIME with a buffer of just enough slots (log 5). -/
def commandFor (s : State) (w : CmdWord) : Command := ⟨w, s.time, List.replicate (slotsFor w) silenceSample⟩

end Sys2Proof.Machine
end

