-- ==== Sys2Proof/Machine/Step.lean ====
section
/-! DEFINITION. One step: the next operation, whole (20_memory.md R37; log 14). -/

namespace Sys2Proof.Machine

/-- One step. When no operation waits, nothing changes (R133). -/
def step (s : State) : Host.Outcome State Fault Refusal :=
  match fetch s with
  | .quiet => .next s
  | .refused why => .refused why
  | .run i s' => exec i s'

/-- `s` with the operation of table word `w` as the next to take the lock, at the current TIME, with a buffer of the slots it asks for (log 5). -/
def State.withFetchWord (s : State) (nbits w : Nat) : State :=
  { s with input := commandFor s (tableWord nbits w) :: s.input }

end Sys2Proof.Machine
end

