-- ==== Sys2Proof/Safety.lean ====
section
/-! DEFINITION. What counts as a good state and as an event sequence of the core, in the words the claims use: the registers the spec
keeps consistent, the playback invariants of 10_state.md R24, the field widths, quiescence, the events a READ fires, and what is observed of a
finite sequence of operations. -/

namespace Sys2Proof.Machine

/-- The configuration registers are legal and agree with one another and with the patches (R21, R22, R53, R54, R56, R58, R59). -/
structure Registers.Configured (c : Config) (r : Registers) : Prop where
  freqLegal : 100 ≤ r.freqHz ∧ r.freqHz ≤ 2000
  spcOfFreq : r.spc = samplesPerCycle c.roundTies c.sr r.freqHz
  volLegal : r.vol ≤ 100
  gainOfVol : r.gain = gainOf r.vol
  wpmLegal : 5 ≤ r.wpm ∧ r.wpm ≤ 60
  cyclesOfRamp : r.rampCycles = rampCyclesOf c.roundTies c.sr r.spc r.wpm
  lengthOfRamp : r.l = r.rampCycles * r.spc
  cyclePatch : r.cycle = patch .cycle r.spc r.l r.gain
  rampUpPatch : r.rampUp = patch .rampUp r.spc r.l r.gain
  rampDownPatch : r.rampDown = patch .rampDown r.spc r.l r.gain

/-- What holds of the playback state between operations (R24, R25): only the settle points add the rest of R24. -/
structure Playback.Orderly (lead : Nat) (p : Playback) : Prop where
  /-- In Silent and TimedSilence, E.POS = 0. -/
  posWithoutTone : p.engState.isTone = false → p.pos = 0
  /-- In Silent, nothing is queued. -/
  silentQueues : p.engState = .silent → p.qTone = none ∧ p.qSil = none
  /-- An owed OnToneStart belongs to a RampUp at its first sample. -/
  startInRampUp : p.startPending = true → p.engState = .rampUp ∧ p.pos = 0
  /-- OnBecomeIdle is owed only in Silent. -/
  idleInSilent : p.idlePending = true → p.engState = .silent
  /-- An abandoned tone's OnToneComplete is owed only while no other tone has been heard. -/
  completeBeforeStart : p.completePending = true → p.engState.isTone = true → p.startPending = true
  /-- E.INDEFINITE belongs to RampUp and Sustain. -/
  indefiniteInTone : p.indefinite = true → p.engState = .rampUp ∨ p.engState = .sustain
  /-- E.SUSTAIN_LEFT belongs to RampUp and Sustain. -/
  sustainInTone : 0 < p.sustainLeft → p.engState = .rampUp ∨ p.engState = .sustain
  /-- E.SILENCE_LEFT belongs to TimedSilence. -/
  silenceInSilence : 0 < p.silenceLeft → p.engState = .timedSilence
  /-- In TimedSilence, OnBeforeSilenceEnd has fired only with at most LEAD samples left. -/
  firedWithinLead : p.engState = .timedSilence → p.beforeEndFired = true → p.silenceLeft ≤ lead

/-- R24, items 2 to 7, at a settle point (item 1, one value of E.ENG_STATE, is the type's). -/
structure Playback.Settled (r : Registers) (lead : Nat) (p : Playback) : Prop where
  posInRamp : p.engState = .rampUp ∨ p.engState = .rampDown → p.pos < r.l
  posInCycle : p.engState = .sustain → p.pos < r.spc
  posWithoutTone : p.engState = .silent ∨ p.engState = .timedSilence → p.pos = 0
  sustainGoesOn : p.engState = .sustain → p.indefinite = true ∨ 1 ≤ p.sustainLeft
  nothingPending : p.startPending = false ∧ p.completePending = false ∧ p.idlePending = false
  silentQueues : p.engState = .silent → p.qTone = none ∧ p.qSil = none
  firedExactly : p.engState = .timedSilence → (p.beforeEndFired = true ↔ p.silenceLeft ≤ lead)
  silenceGoesOn : p.engState = .timedSilence → 0 < p.silenceLeft

/-- The invariant of the machine: admitted parameters, consistent registers, orderly playback, and no keyer transition in the future. -/
structure State.Consistent (s : State) : Prop where
  admitted : s.cfg.Admitted
  configured : s.reg.Configured s.cfg
  orderly : s.play.Orderly s.cfg.lead
  lastTPast : s.key.lastT.toNat ≤ s.time.toNat

/-- No patch is empty: what settling needs to end (R93). -/
abbrev Registers.NonEmpty (r : Registers) : Prop := 1 ≤ r.spc ∧ 1 ≤ r.l

/-- The commands that set the engine's configuration or the keyer's mode (R137). -/
def configures : Instr → Bool
  | .setFrequency _ => true
  | .setVolume _ => true
  | .setWpm _ => true
  | .setModeB _ => true
  | .startTone _ => false
  | .startSilenceThenTone _ _ => false
  | .queueSilence _ _ _ => false
  | .startIndefiniteTone => false
  | .engineStop => false
  | .updatePaddle _ _ => false
  | .stop => false
  | .read _ => false
  | .swapEngine => false

/-- The operations that may add to the RADIO_KEY trace (R112): the handlers run inside READ, keyerStop inside STOP and UPDATE_PADDLE. -/
def mayKey : Instr → Bool
  | .updatePaddle _ _ => true
  | .stop => true
  | .read _ => true
  | .setFrequency _ => false
  | .setVolume _ => false
  | .setWpm _ => false
  | .setModeB _ => false
  | .startTone _ => false
  | .startSilenceThenTone _ _ => false
  | .queueSilence _ _ _ => false
  | .startIndefiniteTone => false
  | .engineStop => false
  | .swapEngine => false

/-- The samples a queued tone asks for. -/
def Tone.length : Tone → Nat
  | .timed n => n
  | .indefinite => 0

/-- Every count is within the width 10_state.md gives its field (R21, R23). -/
structure State.FitsWidths (s : State) : Prop where
  freqHz : s.reg.freqHz < 2 ^ 16
  spc : s.reg.spc < 2 ^ 16
  vol : s.reg.vol < 2 ^ 7
  wpm : s.reg.wpm < 2 ^ 6
  rampCycles : s.reg.rampCycles < 2 ^ 16
  l : s.reg.l < 2 ^ 32
  pos : s.play.pos < 2 ^ 32
  sustainLeft : s.play.sustainLeft < 2 ^ 32
  silenceLeft : s.play.silenceLeft < 2 ^ 32
  qTone : ∀ t, s.play.qTone = some t → t.length < 2 ^ 32
  qSil : ∀ q, s.play.qSil = some q → q.samples < 2 ^ 32 ∧ ∀ m, q.following = some m → m < 2 ^ 32

/-- A quiescent state (R135). -/
structure State.Quiescent (s : State) : Prop where
  silent : s.play.engState = .silent
  noTone : s.play.qTone = none
  noSilence : s.play.qSil = none
  nothingPending : s.play.beforeEndFired = false ∧ s.play.startPending = false ∧ s.play.completePending = false
    ∧ s.play.idlePending = false
  keyerIdle : s.key.keyState = .idle
  keyUp : s.key.keyAsserted = false

/-- The keyer with only the dit paddle in use: no dah is pressed, latched, in a snapshot or being sent (R113). -/
structure Keyer.DitOnly (k : Keyer) : Prop where
  dahUp : k.dah = false
  noLatch : k.latchDah = false
  noToneSnap : k.toneSnapDah = false
  noSilSnap : k.silSnapDah = false
  sendsDit : k.keyState ≠ .idle → k.element = .dit

/-- The keyer with only the dah paddle in use: no dit is pressed, latched, in a snapshot or being sent (R113). -/
structure Keyer.DahOnly (k : Keyer) : Prop where
  ditUp : k.dit = false
  noLatch : k.latchDit = false
  noToneSnap : k.toneSnapDit = false
  noSilSnap : k.silSnapDit = false
  sendsDah : k.keyState ≠ .idle → k.element = .dah

/-- A timed tone of `n` requested samples that has begun and of which no sample has been emitted (R63, R64, R76). -/
structure Playback.BegunTone (r : Registers) (n : Nat) (p : Playback) : Prop where
  rampsUp : p.engState = .rampUp
  atFirst : p.pos = 0
  isTimed : p.indefinite = false
  cycles : p.sustainLeft = (n - 2 * r.l) / r.spc

/-- A tone whose OnToneStart has fired and whose OnToneComplete has not (R77). -/
def Playback.toneOpen (p : Playback) : Bool := p.completePending || (p.engState.isTone && !p.startPending)

/-- The events at most `fuel` passes of settle fire, in order (R81). -/
def State.settleEvents : Nat → State → List Event
  | 0, _ => []
  | fuel + 1, s =>
    match s.play.settleAction s.reg s.cfg.lead with
    | none => []
    | some a => (s.play.delivers a).toList ++ (s.perform a).settleEvents fuel

/-- The events a READ of `n` samples into the slots from `i` on fires, in order (R38, R79). -/
def State.readEvents : Nat → Nat → State → List Event
  | 0, _, s => s.settleEvents settlePasses
  | n + 1, i, s => s.settleEvents settlePasses ++ State.readEvents n (i + 1) (s.readSlot i)

/-- What is observed of a finite sequence of operations: the state, the sample stream, and the two traces after the last one (R139). -/
structure Observation where
  state : State
  samples : List Sample
  radioKey : List KeyEvent
  idle : List Time
deriving DecidableEq, Repr

/-- The observation to be made in a state (R29, R139). -/
def State.observe (s : State) : Observation := ⟨s, s.samples, s.radioKey, s.idle⟩

/-- The observation of the next `k` operations of the input, of fewer when no more wait; none when one of them is refused (R139, R120). -/
def State.observeAfter (k : Nat) (s : State) : Option Observation :=
  match Host.Core.run Sys2Proof.core k s with
  | .next t => some (State.observe t)
  | .fault _ => none
  | .refused _ => none

/-- Whether OnToneStart and OnToneComplete alternate, from a tone open or not; the answer is whether a tone is open at the end (R77). -/
def pairedFrom : Bool → List Event → Option Bool
  | isOpen, [] => some isOpen
  | isOpen, .toneStart :: rest => if isOpen then none else pairedFrom true rest
  | isOpen, .toneComplete :: rest => if isOpen then pairedFrom false rest else none
  | isOpen, .beforeSilenceEnd :: rest => pairedFrom isOpen rest
  | isOpen, .silenceComplete :: rest => pairedFrom isOpen rest
  | isOpen, .becomeIdle :: rest => pairedFrom isOpen rest

end Sys2Proof.Machine
end

