-- ==== Sys2Proof/Certificates/Slice0/Obligations.lean ====
section
/-! DEFINITION. The statements for the provers, each from the numbered rules of spec/ (OBLIGATIONS.json gives tier, basis and cites). `exec`
is one operation, `step` one step of the machine. -/

open Sys2Proof Sys2Proof.Machine

/-! ## The command word -/

/-- 30_encoding.md: decoding the word of a well-formed operation gives it back, at every value of every operand. -/
def Obligations.DecodeOfEncodeIsIdentity : Prop := ∀ i : Instr, i.WellFormed → decode (encode i) = .ok i

/-- 30_encoding.md: a decoded word is the word of its operation, so no bit of it is dropped and each operation has one word. -/
def Obligations.EncodeOfDecodeIsIdentity : Prop :=
  ∀ (w : CmdWord) (i : Instr), decode w = .ok i → encode i = w ∧ i.WellFormed

/-- R47, R49: a word is refused exactly when its OP is not in the table, a RES bit is 1, a field its opcode does not use is not zero, or it is
a QUEUE_SILENCE with P0 = 0 and B ≠ 0 (with P0 = 1 every B is accepted, 0 among them); and a step at such a word is a refusal. -/
def Obligations.WordIsRefusedExactlyWhenIllFormed : Prop :=
  (∀ w : CmdWord, (∃ why, decode w = .error why) ↔
    (opField w).toNat ∉ [0x01, 0x02, 0x03, 0x04, 0x10, 0x11, 0x12, 0x13, 0x14, 0x20, 0x21, 0x30, 0x31]
    ∨ resField w ≠ 0#6
    ∨ ((opField w).toNat ∈ [0x01, 0x02, 0x03, 0x10, 0x30] ∧ (p1Field w = true ∨ p0Field w = true ∨ bField w ≠ 0#24))
    ∨ ((opField w).toNat = 0x04 ∧ (p1Field w = true ∨ aField w ≠ 0#24 ∨ bField w ≠ 0#24))
    ∨ ((opField w).toNat = 0x11 ∧ (p1Field w = true ∨ p0Field w = true))
    ∨ ((opField w).toNat = 0x12 ∧ (p1Field w = true ∨ (p0Field w = false ∧ bField w ≠ 0#24)))
    ∨ ((opField w).toNat ∈ [0x13, 0x14, 0x21, 0x31]
        ∧ (p1Field w = true ∨ p0Field w = true ∨ aField w ≠ 0#24 ∨ bField w ≠ 0#24))
    ∨ ((opField w).toNat = 0x20 ∧ (aField w ≠ 0#24 ∨ bField w ≠ 0#24)))
  ∧ ∀ (s : State) (c : Command) (rest : List Command) (why : DecodeError), s.input = c :: rest →
      s.time.toNat ≤ c.time.toNat → decode c.word = .error why → step s = .refused (.illFormed why)

/-- opcode_table.json: a decoded word is of the row of its operation's mnemonic, and of no other row. -/
def Obligations.DecodedWordIsOfItsTableRow : Prop :=
  ∀ (w : CmdWord) (i : Instr), decode w = .ok i →
    ∃ r ∈ opcodeTable, r.mnemonic = i.mnemonic ∧ r.matchesWord w = true
      ∧ ∀ r' ∈ opcodeTable, r'.matchesWord w = true → r' = r

/-- 95_test_vectors.md 2.1 (N1 to N14): the words written out there decode, or are refused, as said. -/
def Obligations.SpecWordsDecodeAsWritten : Prop :=
  decode 0x100000EA60000000#64 = .ok (.startTone 60000#24)
  ∧ decode 0x0100FFFFFF000000#64 = .ok (.setFrequency (BitVec.ofInt 24 (-1)))
  ∧ decode 0x0300000000000000#64 = .ok (.setWpm 0#24)
  ∧ decode 0x2003000000000000#64 = .ok (.updatePaddle true true)
  ∧ decode 0x1201002710000000#64 = .ok (.queueSilence 10000#24 true 0#24)
  ∧ decode 0x3000FFFFFF000000#64 = .ok (.read 16777215#24)
  ∧ decode 0x0401000000000000#64 = .ok (.setModeB true)
  ∧ decode 0x0400000000000000#64 = .ok (.setModeB false)
  ∧ decode 0x1200002710000001#64 = .error .toneWithoutFlag
  ∧ decode 0x0000000000000000#64 = .error (.unknownOpcode 0#8)
  ∧ decode 0x0500000000000000#64 = .error (.unknownOpcode 5#8)
  ∧ decode 0x1004000000000000#64 = .error .reservedBits
  ∧ decode 0x1002000000000000#64 = .error .unusedField
  ∧ decode 0x100000EA60000001#64 = .error .unusedField
  ∧ decode 0x2101000000000000#64 = .error .unusedField

/-- 20_memory.md section 2: a word carried as bytes is little-endian, byte 0 holding bits [7:0], and takes exactly eight of them. -/
def Obligations.WordBytesAreLittleEndian : Prop :=
  ∀ (w : CmdWord) (rest : List (BitVec 8)),
    decodeBytes ((List.range 8).map (fun k => w.extractLsb' (8 * k) 8) ++ rest) = (decode w).map (fun i => (i, rest))

/-! ## Exact arithmetic and patches -/

/-- R62: durations become samples by the floor, on exact rationals; a word's u µs are floor(u × SR / 1 000 000); and a request that is queued
holds the count made when its command ran. -/
def Obligations.DurationsConvertByFloor : Prop :=
  (∀ (sr : Nat) (d : Millis), 0 < d.den → toSamples sr d = ⌊(d.num : ℚ) / d.den * sr / 1000⌋₊)
  ∧ (∀ (sr : Nat) (u : Operand), toSamples sr (durationOperand u) = ⌊(u.toNat : ℚ) * sr / 1000000⌋₊)
  ∧ ∀ (u : Operand) (s t : State), s.play.engState = .timedSilence → exec (.startTone u) s = .next t →
      t.play.qTone = some (.timed ⌊(u.toNat : ℚ) * s.cfg.sr / 1000000⌋₊)

/-- 00_scope.md section 5: round_ties is a nearest integer, and a tie goes to the even one or away from zero. -/
def Obligations.RoundingIsToNearestWithTies : Prop :=
  ∀ (ties : RoundTies) (n d : Nat), 0 < d →
    |(roundTies ties n d : ℚ) - (n : ℚ) / d| ≤ 1 / 2
    ∧ (2 * (n % d) = d → ties = .toEven → roundTies ties n d % 2 = 0)
    ∧ (2 * (n % d) = d → ties = .awayFromZero → (n : ℚ) / d < roundTies ties n d)

/-- 40_engine_config.md section 1: PATCH_VALUE is a finite float32 of magnitude at most 1, and zero when the gain is 0; and in a consistent state the
patches hold exactly its values at the current E.SPC, E.L and E.GAIN. What finite, magnitude and zero mean of 32 bits is the binary32 format, which the
model presumes (log 20). -/
def Obligations.PatchesHoldLegalPatchValues : Prop :=
  (∀ (kind : PatchKind) (n spc l : Nat) (g : Rat),
    (patchValue kind n spc l g).IsFinite ∧ (patchValue kind n spc l g).absValue ≤ 1
      ∧ (g = 0 → (patchValue kind n spc l g).absValue = 0))
  ∧ ∀ s : State, s.Consistent →
      s.reg.cycle.length = s.reg.spc ∧ s.reg.rampUp.length = s.reg.l ∧ s.reg.rampDown.length = s.reg.l
      ∧ (∀ n, n < s.reg.spc → s.reg.cycle[n]? = some (patchValue .cycle n s.reg.spc s.reg.l s.reg.gain))
      ∧ (∀ n, n < s.reg.l → s.reg.rampUp[n]? = some (patchValue .rampUp n s.reg.spc s.reg.l s.reg.gain))
      ∧ (∀ n, n < s.reg.l → s.reg.rampDown[n]? = some (patchValue .rampDown n s.reg.spc s.reg.l s.reg.gain))

/-- 40_engine_config.md section 1 (phase continuity): in a consistent state the ramps are a whole number of cycles, at least one, and no
patch is empty. -/
def Obligations.RampsAreWholeCycles : Prop :=
  ∀ s : State, s.Consistent → s.reg.l % s.reg.spc = 0 ∧ 4 ≤ s.reg.spc ∧ s.reg.spc ≤ s.reg.l

/-- 43_keyer.md section 4 and 70_reset_and_hazards.md section 5: at SR = 48000 a dit asks for floor(57600 / w) samples, a dah for
floor(172800 / w), a gap for floor(57600 / w). -/
def Obligations.ElementLengthsAtFortyEightKilohertz : Prop :=
  ∀ w : Nat, 5 ≤ w → w ≤ 60 →
    toSamples 48000 (elementMs w .dit) = 57600 / w ∧ toSamples 48000 (elementMs w .dah) = 172800 / w
      ∧ toSamples 48000 (gapMs w) = 57600 / w

/-! ## Configuration commands -/

/-- R58: an accepted frequency is stored, snapped to a whole number of samples, and the ramp and all patches are made anew; any other is
ignored; nothing else changes. -/
def Obligations.SetFrequencySnapsOrIgnores : Prop :=
  ∀ (hz : Operand) (s : State),
    (100 ≤ hz.toInt ∧ hz.toInt ≤ 2000 →
      ∃ t, exec (.setFrequency hz) s = .next t ∧ t = { s with reg := t.reg }
        ∧ t.reg.freqHz = hz.toInt.toNat
        ∧ t.reg.spc = roundTies s.cfg.roundTies s.cfg.sr hz.toInt.toNat
        ∧ t.reg.rampCycles = rampCyclesOf s.cfg.roundTies s.cfg.sr t.reg.spc s.reg.wpm
        ∧ t.reg.l = t.reg.rampCycles * t.reg.spc
        ∧ t.reg.vol = s.reg.vol ∧ t.reg.gain = s.reg.gain ∧ t.reg.wpm = s.reg.wpm
        ∧ t.reg.cycle = patch .cycle t.reg.spc t.reg.l t.reg.gain
        ∧ t.reg.rampUp = patch .rampUp t.reg.spc t.reg.l t.reg.gain
        ∧ t.reg.rampDown = patch .rampDown t.reg.spc t.reg.l t.reg.gain)
    ∧ (¬ (100 ≤ hz.toInt ∧ hz.toInt ≤ 2000) → exec (.setFrequency hz) s = .next s)

/-- R59, R61: the volume is clamped to 0..100, the gain is its exact hundredth, the patches are made anew; no sample count and nothing else
changes. -/
def Obligations.SetVolumeClampsAndRegenerates : Prop :=
  ∀ (pct : Operand) (s : State), ∃ t, exec (.setVolume pct) s = .next t ∧ t = { s with reg := t.reg }
    ∧ (t.reg.vol : Int) = min 100 (max 0 pct.toInt)
    ∧ t.reg.gain * 100 = t.reg.vol
    ∧ t.reg.freqHz = s.reg.freqHz ∧ t.reg.spc = s.reg.spc ∧ t.reg.wpm = s.reg.wpm
    ∧ t.reg.rampCycles = s.reg.rampCycles ∧ t.reg.l = s.reg.l
    ∧ t.reg.cycle = patch .cycle t.reg.spc t.reg.l t.reg.gain
    ∧ t.reg.rampUp = patch .rampUp t.reg.spc t.reg.l t.reg.gain
    ∧ t.reg.rampDown = patch .rampDown t.reg.spc t.reg.l t.reg.gain

/-- R60: the speed is clamped to 5..60, the ramp and the patches are made anew; nothing else changes. -/
def Obligations.SetWpmClampsAndRecomputesRamp : Prop :=
  ∀ (wpm : Operand) (s : State), ∃ t, exec (.setWpm wpm) s = .next t ∧ t = { s with reg := t.reg }
    ∧ (t.reg.wpm : Int) = min 60 (max 5 wpm.toInt)
    ∧ t.reg.rampCycles = rampCyclesOf s.cfg.roundTies s.cfg.sr s.reg.spc t.reg.wpm
    ∧ t.reg.l = t.reg.rampCycles * s.reg.spc
    ∧ t.reg.freqHz = s.reg.freqHz ∧ t.reg.spc = s.reg.spc ∧ t.reg.vol = s.reg.vol ∧ t.reg.gain = s.reg.gain
    ∧ t.reg.cycle = patch .cycle t.reg.spc t.reg.l t.reg.gain
    ∧ t.reg.rampUp = patch .rampUp t.reg.spc t.reg.l t.reg.gain
    ∧ t.reg.rampDown = patch .rampDown t.reg.spc t.reg.l t.reg.gain

/-- R53: the ramp lasts 5 ms if the dit is at least 50 ms (exactly up to 24 WPM) and a tenth of the dit otherwise, taken exactly; its cycles are the
rounding, under ROUND_TIES, of its exact samples over E.SPC, and at least 1; E.L is their product with E.SPC, the length of both ramps. -/
def Obligations.RampIsTheNearestWholeNumberOfCycles : Prop :=
  ∀ s : State, s.Consistent →
    let dit : ℚ := 1200 / (s.reg.wpm : ℚ)
    let ramp : ℚ := if 50 ≤ dit then 5 else dit / 10
    let quotient : ℚ := ramp * (s.cfg.sr : ℚ) / 1000 / (s.reg.spc : ℚ)
    (∃ n d : Nat, 0 < d ∧ (n : ℚ) / d = quotient ∧ s.reg.rampCycles = max 1 (roundTies s.cfg.roundTies n d)
      ∧ |(roundTies s.cfg.roundTies n d : ℚ) - quotient| ≤ 1 / 2)
    ∧ s.reg.l = s.reg.rampCycles * s.reg.spc ∧ s.reg.rampUp.length = s.reg.l ∧ s.reg.rampDown.length = s.reg.l
    ∧ (50 ≤ dit ↔ s.reg.wpm ≤ 24)

/-- 70_reset_and_hazards.md section 2 (boot): the configuration commands and SET_MODE_B have the same effect in either order. -/
def Obligations.ConfigurationCommandsCommute : Prop :=
  ∀ (i j : Instr) (s : State), configures i = true → configures j = true →
    (∀ a b, i = .setFrequency a → j ≠ .setFrequency b) → (∀ a b, i = .setVolume a → j ≠ .setVolume b) →
    (∀ a b, i = .setWpm a → j ≠ .setWpm b) → (∀ a b, i = .setModeB a → j ≠ .setModeB b) →
    ∃ a b u, exec i s = .next a ∧ exec j a = .next u ∧ exec j s = .next b ∧ exec i b = .next u

/-- R57: a configuration command leaves all of the playback state; the next sample of a phase whose index is below the new length of its patch is the
new patch's, at the old index; and where the index is at or past that length, the next settle does exactly what it does when the index is that
length, the patch exhausted. An owed OnToneStart or OnToneComplete makes no difference. -/
def Obligations.ConfigurationActsOnTheToneInProgress : Prop :=
  ∀ (i : Instr) (s t : State), configures i = true → exec i s = .next t → t.reg.NonEmpty →
    t.play = s.play
    ∧ (s.play.engState = .rampUp →
      (s.play.pos < t.reg.l → t.settle.play.currentSample t.reg = patchEntry .rampUp t.reg.rampUp s.play.pos)
      ∧ (t.reg.l ≤ s.play.pos → t.settle = ({ t with play := { t.play with pos := t.reg.l } } : State).settle))
    ∧ (s.play.engState = .sustain →
      (s.play.indefinite = true ∨ 1 ≤ s.play.sustainLeft → s.play.pos < t.reg.spc →
        t.settle.play.currentSample t.reg = patchEntry .cycle t.reg.cycle s.play.pos)
      ∧ (t.reg.spc ≤ s.play.pos → t.settle = ({ t with play := { t.play with pos := t.reg.spc } } : State).settle))
    ∧ (s.play.engState = .rampDown →
      (s.play.pos < t.reg.l → t.settle.play.currentSample t.reg = patchEntry .rampDown t.reg.rampDown s.play.pos)
      ∧ (t.reg.l ≤ s.play.pos → t.settle = ({ t with play := { t.play with pos := t.reg.l } } : State).settle))

/-! ## Playback commands -/

/-- R68, R69, R72: what START_TONE and START_INDEFINITE_TONE do in each engine state, and that they change nothing else. -/
def Obligations.ToneRequestActsByEngineState : Prop :=
  ∀ (i : Instr) (tone : Tone) (s : State),
    (i = .startIndefiniteTone ∧ tone = .indefinite
      ∨ ∃ us : Operand, i = .startTone us ∧ tone = .timed (us.toNat * s.cfg.sr / 1000000)) →
    ∃ t, exec i s = .next t ∧ t = { s with play := t.play }
      ∧ (s.play.engState = .timedSilence → t.play = { s.play with qTone := some tone })
      ∧ (s.play.engState = .silent ∨ (s.play.engState = .rampUp ∧ s.play.startPending = true) →
          t.play = { s.play with
            engState := .rampUp, pos := 0, startPending := true, idlePending := false, qTone := none, qSil := none
            indefinite := decide (tone = .indefinite)
            sustainLeft := if tone = .indefinite then 0 else (tone.length - 2 * s.reg.l) / s.reg.spc })
      ∧ (s.play.engState = .rampUp ∧ s.play.startPending = false →
          t.play = { s.play with
            engState := .rampDown, indefinite := false, sustainLeft := 0, qTone := some tone, qSil := none
            pos := s.reg.l - s.reg.spc * (min s.play.pos (s.reg.l - 1) / s.reg.spc + 1)
              + min s.play.pos (s.reg.l - 1) % s.reg.spc })
      ∧ (s.play.engState = .sustain →
          t.play = { s.play with
            engState := .rampDown, indefinite := false, sustainLeft := 0, qTone := some tone, qSil := none
            pos := s.play.pos % s.reg.spc })
      ∧ (s.play.engState = .rampDown → t.play = { s.play with qTone := some tone, qSil := none })

/-- R66: a cut enters RampDown at an index of the same carrier phase, and from there the ramp-down has the length the rule gives. -/
def Obligations.CutKeepsTheCarrierPhase : Prop :=
  ∀ (s : State), s.Consistent →
    (s.play.engState = .sustain →
      (s.play.cutToRampDown s.reg)
          = { s.play with pos := s.play.pos % s.reg.spc, engState := .rampDown, indefinite := false, sustainLeft := 0 }
      ∧ s.reg.l + 1 ≤ s.reg.l - (s.play.cutToRampDown s.reg).pos + s.reg.spc
      ∧ s.reg.l - (s.play.cutToRampDown s.reg).pos ≤ s.reg.l)
    ∧ (s.play.engState = .rampUp →
      let p := min s.play.pos (s.reg.l - 1)
      (s.play.cutToRampDown s.reg)
          = { s.play with
              pos := s.reg.l - s.reg.spc * (p / s.reg.spc + 1) + p % s.reg.spc
              engState := .rampDown, indefinite := false, sustainLeft := 0 }
      ∧ (s.play.cutToRampDown s.reg).pos % s.reg.spc = p % s.reg.spc
      ∧ (s.play.cutToRampDown s.reg).pos < s.reg.l
      ∧ s.reg.l - (s.play.cutToRampDown s.reg).pos + p % s.reg.spc = s.reg.spc * (p / s.reg.spc + 1))

/-- R65, R67, R70: START_SILENCE_THEN_TONE abandons an active tone (its OnToneComplete is owed if its OnToneStart has fired), begins the silence
and queues the tone; nothing else changes. -/
def Obligations.SilenceThenToneBeginsAtOnce : Prop :=
  ∀ (us ut : Operand) (s : State), ∃ t, exec (.startSilenceThenTone us ut) s = .next t ∧ t = { s with play := t.play }
    ∧ (s.play.engState.isTone = false →
        t.play = { s.play with
          engState := .timedSilence, pos := 0, silenceLeft := us.toNat * s.cfg.sr / 1000000, beforeEndFired := false
          qSil := none, idlePending := false, qTone := some (.timed (ut.toNat * s.cfg.sr / 1000000)) })
    ∧ (s.play.engState.isTone = true →
        t.play = { s.play with
          engState := .timedSilence, pos := 0, silenceLeft := us.toNat * s.cfg.sr / 1000000, beforeEndFired := false
          qSil := none, idlePending := false, qTone := some (.timed (ut.toNat * s.cfg.sr / 1000000))
          completePending := if s.play.startPending then s.play.completePending else true
          startPending := false, indefinite := false, sustainLeft := 0 })

/-- R71: QUEUE_SILENCE starts the silence at once when Silent, and otherwise supersedes the queued silence; a following tone is taken
when P0 = 1; nothing else changes. -/
def Obligations.QueueSilenceStartsOrSupersedes : Prop :=
  ∀ (us ut : Operand) (follow : Bool) (s : State),
    ∃ t, exec (.queueSilence us follow ut) s = .next t ∧ t = { s with play := t.play }
      ∧ (s.play.engState = .silent →
          t.play = { s.play with
            engState := .timedSilence, pos := 0, silenceLeft := us.toNat * s.cfg.sr / 1000000, beforeEndFired := false
            qSil := none, idlePending := false
            qTone := if follow then some (.timed (ut.toNat * s.cfg.sr / 1000000)) else s.play.qTone })
      ∧ (s.play.engState ≠ .silent →
          t.play = { s.play with
            qSil := some ⟨us.toNat * s.cfg.sr / 1000000,
              if follow then some (ut.toNat * s.cfg.sr / 1000000) else none⟩ })

/-- R73, R74, R75: ENGINE_STOP empties both queues and then acts by engine state and stop policy; nothing else changes. -/
def Obligations.EngineStopActsByStateAndPolicy : Prop :=
  ∀ s : State, ∃ t, exec .engineStop s = .next t ∧ t = { s with play := t.play }
    ∧ (s.play.engState = .silent → t.play = { s.play with qTone := none, qSil := none })
    ∧ (s.play.engState = .timedSilence →
        t.play = { s.play with
          qTone := none, qSil := none, engState := .silent, silenceLeft := 0, beforeEndFired := false, idlePending := true })
    ∧ (s.play.engState = .rampUp → s.play.startPending = true →
        t.play = { s.play with
          qTone := none, qSil := none, startPending := false, engState := .silent, pos := 0, indefinite := false
          sustainLeft := 0, idlePending := true })
    ∧ (s.cfg.stopPolicy = .graceful →
        (s.play.engState = .rampUp → s.play.startPending = false →
          t.play = { s.play with
            qTone := none, qSil := none, engState := .rampDown, indefinite := false, sustainLeft := 0
            pos := s.reg.l - s.reg.spc * (min s.play.pos (s.reg.l - 1) / s.reg.spc + 1)
              + min s.play.pos (s.reg.l - 1) % s.reg.spc })
        ∧ (s.play.engState = .sustain →
          t.play = { s.play with
            qTone := none, qSil := none, engState := .rampDown, indefinite := false, sustainLeft := 0
            pos := s.play.pos % s.reg.spc })
        ∧ (s.play.engState = .rampDown → t.play = { s.play with qTone := none, qSil := none, indefinite := false }))
    ∧ (s.cfg.stopPolicy = .truncate →
        (s.play.engState = .rampUp ∧ s.play.startPending = false ∨ s.play.engState = .sustain
          ∨ s.play.engState = .rampDown) →
        t.play = { s.play with
          qTone := none, qSil := none, engState := .silent, pos := 0, indefinite := false, sustainLeft := 0
          startPending := false, idlePending := true
          completePending := if s.play.startPending then s.play.completePending else true })

/-! ## READ, settling and events -/

/-- R32, R79: with a buffer of at least count slots, READ completes: count turns of settling and emitting, a last settle, and its count as
READ_RESULT; slot k holds, for each k below count, the sample that the state settled after k turns emits, and no other slot is written; the slots
written are what the sample stream grows by; it leaves the parameters, the configuration, the waiting operations, TIME, the live paddles and the mode. -/
def Obligations.ReadWritesExactlyItsSlots : Prop :=
  ∀ (count : Operand) (s : State), count.toNat ≤ s.buf.length →
    ∃ t, exec (.read count) s = .next t
      ∧ t = { (State.readSlots count.toNat 0 s).settle with readResult := some count }
      ∧ t.buf.length = s.buf.length
      ∧ (∀ k, k < count.toNat →
          t.slot k = some ((State.readSlots k 0 s).settle.play.currentSample s.reg))
      ∧ (∀ k, count.toNat ≤ k → t.slot k = s.slot k)
      ∧ t.samples = s.samples ++ t.buf.take count.toNat
      ∧ t.cfg = s.cfg ∧ t.reg = s.reg ∧ t.input = s.input ∧ t.time = s.time
      ∧ t.key.dit = s.key.dit ∧ t.key.dah = s.key.dah ∧ t.key.modeB = s.key.modeB

/-- 93_implementation_defined.md section 2 (I20) and the model's log 7: READ stops for a buffer of too few slots, and then it is refused; with enough slots it
completes. -/
def Obligations.ReadStopsOnlyWithoutSlots : Prop :=
  ∀ (count : Operand) (s : State),
    (s.buf.length < count.toNat → exec (.read count) s = .refused .bufferTooShort)
    ∧ (count.toNat ≤ s.buf.length → ∃ t, exec (.read count) s = .next t ∧ t.readResult = some count)

/-- 42_engine_read.md section 1: a turn of READ's loop at a state ready to emit writes the sample of the phase, adds it to the sample stream, and moves the
phase on by one; nothing else changes. That the silent sample, +0.0, is the word 0 is the binary32 format, which the model presumes (log 20). -/
def Obligations.EmitAdvancesThePhase : Prop :=
  ∀ (s : State) (i : Nat), s.play.settleAction s.reg s.cfg.lead = none → i < s.buf.length →
    (s.play.engState = .silent → s.readSlot i = { s with buf := s.buf.set i 0#32, samples := s.samples ++ [0#32] })
    ∧ (s.play.engState = .timedSilence →
        s.readSlot i = { s with
          buf := s.buf.set i 0#32, samples := s.samples ++ [0#32]
          play := { s.play with silenceLeft := s.play.silenceLeft - 1 } })
    ∧ (∀ v, s.play.engState = .rampUp → s.reg.rampUp[s.play.pos]? = some v →
        s.readSlot i = { s with
          buf := s.buf.set i v, samples := s.samples ++ [v], play := { s.play with pos := s.play.pos + 1 } })
    ∧ (∀ v, s.play.engState = .sustain → s.reg.cycle[s.play.pos]? = some v →
        s.readSlot i = { s with
          buf := s.buf.set i v, samples := s.samples ++ [v], play := { s.play with pos := s.play.pos + 1 } })
    ∧ (∀ v, s.play.engState = .rampDown → s.reg.rampDown[s.play.pos]? = some v →
        s.readSlot i = { s with
          buf := s.buf.set i v, samples := s.samples ++ [v], play := { s.play with pos := s.play.pos + 1 } })

/-- R93: with patches of positive length settle's loop returns, and within eight passes: more of them change nothing, and no check of R81 is left that
holds. (Eight is the model's bound, log 9.) -/
def Obligations.SettleNeedsAtMostEightPasses : Prop :=
  ∀ (s : State) (n : Nat), s.reg.NonEmpty → 8 ≤ n →
    s.settleWithin n = s.settle ∧ (s.settleWithin n).play.settleAction s.reg s.cfg.lead = none

/-- R81: settle makes the first check that holds, in the order written, and starts again; it returns when none holds. -/
def Obligations.SettleFollowsItsChecksInOrder : Prop :=
  ∀ s : State, s.reg.NonEmpty →
    (s.play.completePending = true →
      s.settle = (({ s with play := { s.play with completePending := false } } : State).fire .toneComplete).settle)
    ∧ (s.play.completePending = false →
      (s.play.engState = .silent →
        (s.play.idlePending = true →
          s.settle = (({ s with play := { s.play with idlePending := false } } : State).fire .becomeIdle).settle)
        ∧ (s.play.idlePending = false → s.settle = s))
      ∧ (s.play.engState = .rampUp →
        (s.play.startPending = true →
          s.settle = (({ s with play := { s.play with startPending := false } } : State).fire .toneStart).settle)
        ∧ (s.play.startPending = false → s.reg.l ≤ s.play.pos →
          s.settle = ({ s with
            play := { s.play with
              pos := 0, engState := if s.play.indefinite = true ∨ 0 < s.play.sustainLeft then .sustain else .rampDown } }
            : State).settle)
        ∧ (s.play.startPending = false → s.play.pos < s.reg.l → s.settle = s))
      ∧ (s.play.engState = .sustain →
        (s.play.indefinite = false ∧ s.play.sustainLeft = 0 →
          s.settle = ({ s with play := { s.play with pos := 0, engState := .rampDown } } : State).settle)
        ∧ (s.play.indefinite = true ∨ 0 < s.play.sustainLeft → s.reg.spc ≤ s.play.pos →
          s.settle = ({ s with
            play := { s.play with
              pos := 0, sustainLeft := if s.play.indefinite then s.play.sustainLeft else s.play.sustainLeft - 1 } }
            : State).settle)
        ∧ (s.play.indefinite = true ∨ 0 < s.play.sustainLeft → s.play.pos < s.reg.spc → s.settle = s))
      ∧ (s.play.engState = .rampDown →
        (s.reg.l ≤ s.play.pos → s.settle = (s.perform .toneEnd).settle) ∧ (s.play.pos < s.reg.l → s.settle = s))
      ∧ (s.play.engState = .timedSilence →
        (s.play.beforeEndFired = false → s.play.silenceLeft ≤ s.cfg.lead →
          s.settle = (({ s with play := { s.play with beforeEndFired := true } } : State).fire .beforeSilenceEnd).settle)
        ∧ (s.play.beforeEndFired = true → s.play.silenceLeft = 0 → s.settle = (s.perform .silenceEnd).settle)
        ∧ (s.play.beforeEndFired = true ∨ s.cfg.lead < s.play.silenceLeft → 0 < s.play.silenceLeft → s.settle = s)))

/-- R24: at every settle point of a READ from a consistent state, the playback state meets the seven invariants. -/
def Obligations.SettlePointsMeetTheInvariants : Prop :=
  ∀ (s : State) (k : Nat), s.Consistent →
    ((State.readSlots k 0 s).settle).play.Settled s.reg s.cfg.lead

/-- R92: READ a followed by READ b, at the same or at another `now`, gives the samples, the events, the engine and the keyer of READ a + b; only the times
that the second READ's handlers note can differ, and at the same `now` they do not. -/
def Obligations.ReadsSplitAnywhere : Prop :=
  ∀ (a b c : Operand) (s : State) (now : Time), s.reg.NonEmpty → c.toNat = a.toNat + b.toNat → c.toNat ≤ s.buf.length →
    ∃ s1 s2 t, exec (.read a) s = .next s1 ∧ exec (.read b) { s1 with time := now } = .next s2 ∧ exec (.read c) s = .next t
      ∧ s2.play = t.play ∧ s2.reg = t.reg ∧ s2.samples = t.samples ∧ { s2.key with lastT := t.key.lastT } = t.key
      ∧ s2.radioKey.map KeyEvent.asserted = t.radioKey.map KeyEvent.asserted ∧ s2.idle.length = t.idle.length
      ∧ (now = s.time → s2.key = t.key ∧ s2.radioKey = t.radioKey ∧ s2.idle = t.idle)
      ∧ (∀ k, k < a.toNat → t.slot k = s1.slot k)
      ∧ (∀ k, k < b.toNat → t.slot (a.toNat + k) = s2.slot k)
      ∧ State.readEvents a.toNat 0 s ++ State.readEvents b.toNat 0 { s1 with time := now } = State.readEvents c.toNat 0 s

/-- 70_reset_and_hazards.md section 1: the reset state is quiescent; from a quiescent state READ emits only +0.0 and changes nothing but its output: the
buffer's slots, the sample stream and READ_RESULT. That +0.0 is the word 0 is the binary32 format, which the model presumes (log 20). -/
def Obligations.QuiescentReadIsSilent : Prop :=
  (∀ (c : Config) (t0 : Time), (State.resetWith c t0).Quiescent)
  ∧ ∀ (count : Operand) (s : State), s.Quiescent → count.toNat ≤ s.buf.length →
      ∃ t, exec (.read count) s = .next t
        ∧ t = { s with
            buf := t.buf, samples := s.samples ++ List.replicate count.toNat 0#32, readResult := some count }
        ∧ (∀ k, k < count.toNat → t.slot k = some 0#32)
        ∧ (∀ k, count.toNat ≤ k → t.slot k = s.slot k)

/-- R76: a timed tone of n requested samples, however it began, sounds for exactly 2·E.L + E.SPC × sustainFor(n) samples, after which its ramp-down is
exhausted; that is 2·E.L if n < 2·E.L + E.SPC, and lies in (n − E.SPC, n] if n ≥ 2·E.L. It begins so by a request in Silent (START_TONE, the keyer's
first element), in place of a tone not yet heard, at the end of a silence (a deferred tone, the keyer's next element), and at the end of a ramp-down
(a tone queued by a cut). -/
def Obligations.TimedToneHasItsExactLength : Prop :=
  (∀ (n : Nat) (s : State), s.Consistent → s.play.BegunTone s.reg n →
    let len := 2 * s.reg.l + s.reg.spc * ((n - 2 * s.reg.l) / s.reg.spc)
    (∀ k, k < len → (State.readSlots k 0 s).settle.play.engState.isTone = true)
    ∧ (State.readSlots len 0 s).play.engState = .rampDown ∧ (State.readSlots len 0 s).play.pos = s.reg.l
    ∧ (n < 2 * s.reg.l + s.reg.spc → len = 2 * s.reg.l)
    ∧ (2 * s.reg.l ≤ n → n < len + s.reg.spc ∧ len ≤ n))
  ∧ (∀ (us : Operand) (s t : State),
      s.play.engState = .silent ∨ s.play.engState = .rampUp ∧ s.play.startPending = true → exec (.startTone us) s = .next t →
      t.play.BegunTone t.reg (us.toNat * s.cfg.sr / 1000000))
  ∧ (∀ (d h : Bool) (s t : State), s.key.keyState = .idle → s.play.engState = .silent → d = true ∨ h = true →
      exec (.updatePaddle d h) s = .next t →
      t.play.BegunTone t.reg ((if d then 1200 else 3600) * s.cfg.sr / (s.reg.wpm * 1000)))
  ∧ (∀ (n : Nat) (s : State), s.play.qTone = some (.timed n) → (s.perform .silenceEnd).play.BegunTone s.reg n)
  ∧ (∀ (n : Nat) (s : State), s.play.qTone = some (.timed n) → s.play.qSil = none →
      ¬ (s.key.keyState = .tonePlaying ∧ s.key.toneActive = true) → (s.perform .toneEnd).play.BegunTone s.reg n)

/-- R94: when the keyer's element ends, the silence before the next sample of a tone is exactly toSamples(GAP_MS) samples, for every LEAD and however the
READs are split; then the next tone's first sample is due, or the engine is Silent. -/
def Obligations.InterElementGapIsExact : Prop :=
  ∀ s : State, s.Consistent → s.play.engState = .rampDown → s.reg.l ≤ s.play.pos → s.play.completePending = false →
    s.key.keyState = .tonePlaying → s.key.toneActive = true →
    let g := toSamples s.cfg.sr (gapMs s.reg.wpm)
    (∀ k, k < g → (State.readSlots k 0 s).settle.play.engState = .timedSilence
        ∧ (State.readSlots k 0 s).settle.play.silenceLeft = g - k)
    ∧ ((State.readSlots g 0 s).settle.play.engState = .rampUp ∧ (State.readSlots g 0 s).settle.play.pos = 0
        ∨ (State.readSlots g 0 s).settle.play.engState = .silent)

/-- R77: within a READ, OnToneStart and OnToneComplete alternate, beginning from whether a tone is open before it and ending in whether one is
open after it; and every operation but READ and SWAP_ENGINE leaves open what was open. -/
def Obligations.ToneEventsPair : Prop :=
  (∀ (count : Operand) (s t : State), s.Consistent → exec (.read count) s = .next t →
    pairedFrom s.play.toneOpen (State.readEvents count.toNat 0 s) = some t.play.toneOpen)
  ∧ ∀ (i : Instr) (s t : State), s.Consistent → (∀ n, i ≠ .read n) → i ≠ .swapEngine → exec i s = .next t →
      t.play.toneOpen = s.play.toneOpen

/-- 42_engine_read.md section 3 (R83, R85, R87, R88, R90, R91): the state in which each event is delivered by a pass of settle; an abandoned tone's
OnToneComplete comes before any other event. -/
def Obligations.EventsAreDeliveredWhenOwed : Prop :=
  ∀ (s : State) (a : SettleAction), s.play.Orderly s.cfg.lead → s.play.settleAction s.reg s.cfg.lead = some a →
    (s.play.completePending = true → s.play.delivers a = some .toneComplete)
    ∧ (s.play.delivers a = some .toneStart → s.play.engState = .rampUp ∧ s.play.pos = 0 ∧ s.play.startPending = true)
    ∧ (s.play.delivers a = some .toneComplete → s.play.completePending = false →
        s.play.engState = .rampDown ∧ s.reg.l ≤ s.play.pos)
    ∧ (s.play.delivers a = some .beforeSilenceEnd →
        s.play.engState = .timedSilence ∧ s.play.silenceLeft ≤ s.cfg.lead ∧ s.play.beforeEndFired = false
          ∧ (s.perform a).play.beforeEndFired = true)
    ∧ (s.play.delivers a = some .silenceComplete →
        s.play.engState = .timedSilence ∧ s.play.silenceLeft = 0 ∧ s.play.qTone = none ∧ s.play.qSil = none)
    ∧ (s.play.delivers a = some .becomeIdle → s.play.engState = .silent ∧ s.play.idlePending = true
          ∧ s.play.qTone = none ∧ s.play.qSil = none)

/-- R84: at the end of a silence the queued tone begins first, else the queued silence, else the engine becomes Silent and OnBecomeIdle is owed. -/
def Obligations.SilenceEndStartsWhatIsQueued : Prop :=
  ∀ s : State,
    (∀ t, s.play.qTone = some t → (s.perform .silenceEnd).play = { s.play with qTone := none }.beginTone s.reg t
        ∧ (s.perform .silenceEnd).key = s.key)
    ∧ (∀ q, s.play.qTone = none → s.play.qSil = some q →
        (s.perform .silenceEnd).play = s.play.beginSilence q ∧ (s.perform .silenceEnd).key = s.key)
    ∧ (s.play.qTone = none → s.play.qSil = none →
        (s.perform .silenceEnd).play
            = { s.play with engState := .silent, silenceLeft := 0, beforeEndFired := false, idlePending := true }
        ∧ (s.perform .silenceEnd).key = (s.fire .silenceComplete).key)

/-- R82: at the end of a ramp-down OnToneComplete fires with the engine Silent; if its handler starts nothing, the queued silence begins, else the
queued tone, else OnBecomeIdle is owed; a gap the handler queues begins at this boundary. -/
def Obligations.ToneEndFiresThenStartsWhatIsQueued : Prop :=
  ∀ s : State,
    let p := { s.play with engState := .silent, pos := 0, indefinite := false, sustainLeft := 0 }
    (s.key.keyState = .tonePlaying ∧ s.key.toneActive = true →
      (s.perform .toneEnd).play = p.beginSilence ⟨toSamples s.cfg.sr (gapMs s.reg.wpm), none⟩
      ∧ (s.perform .toneEnd).key.keyState = .interElementSpace)
    ∧ (¬ (s.key.keyState = .tonePlaying ∧ s.key.toneActive = true) →
      (∀ q, s.play.qSil = some q → (s.perform .toneEnd).play = p.beginSilence q)
      ∧ (∀ t, s.play.qSil = none → s.play.qTone = some t →
          (s.perform .toneEnd).play = { p with qTone := none }.beginTone s.reg t)
      ∧ (s.play.qSil = none → s.play.qTone = none → (s.perform .toneEnd).play = { p with idlePending := true })
      ∧ (s.perform .toneEnd).key = s.key ∧ (s.perform .toneEnd).radioKey = s.radioKey)

/-! ## Keyer -/

/-- R99, R102: UPDATE_PADDLE in Idle takes the paddles; with one pressed it starts an element (both pressed: a dit) with a provisional snapshot and
no tone active, and requests its tone; nothing else changes. -/
def Obligations.PaddleInIdleStartsAnElement : Prop :=
  ∀ (d h : Bool) (s : State), s.key.keyState = .idle →
    (d = false → h = false →
      exec (.updatePaddle d h) s = .next { s with key := { s.key with dit := false, dah := false } })
    ∧ (d = true ∨ h = true →
      exec (.updatePaddle d h) s = .next { s with
        key := { s.key with
          dit := d, dah := h, element := if d then .dit else .dah, toneSnapDit := d, toneSnapDah := h
          silSnapDit := false, silSnapDah := false, latchDit := false, latchDah := false, toneActive := false
          keyState := .tonePlaying, lastT := s.time }
        play := s.play.toneRequest s.reg
          (.timed ((if d then 1200 else 3600) * s.cfg.sr / (s.reg.wpm * 1000))) })

/-- R98, R102: UPDATE_PADDLE in TonePlaying and InterElementSpace, the watchdog not tripping, takes the paddles and latches a paddle on a rising edge
that the reference snapshot does not hold; nothing else changes. -/
def Obligations.PaddleEdgesLatch : Prop :=
  ∀ (d h : Bool) (s : State), s.time.toNat - s.key.lastT.toNat ≤ 1000000 →
    (s.key.keyState = .tonePlaying →
      exec (.updatePaddle d h) s = .next { s with
        key := { s.key with
          dit := d, dah := h
          latchDit := s.key.latchDit || (d && !s.key.dit && !s.key.toneSnapDit)
          latchDah := s.key.latchDah || (h && !s.key.dah && !s.key.toneSnapDah) } })
    ∧ (s.key.keyState = .interElementSpace →
      exec (.updatePaddle d h) s = .next { s with
        key := { s.key with
          dit := d, dah := h
          latchDit := s.key.latchDit || (d && !s.key.dit && !s.key.silSnapDit)
          latchDah := s.key.latchDah || (h && !s.key.dah && !s.key.silSnapDah) } })

/-- R101, R116: a non-Idle state older than 1 000 000 µs makes UPDATE_PADDLE a STOP followed by the same UPDATE_PADDLE; with both paddles
released the keyer is then Idle and exactly one key-up has been emitted; at exactly 1 000 000 µs, and in Idle, nothing is emitted. -/
def Obligations.WatchdogForcesStop : Prop :=
  ∀ (d h : Bool) (s : State),
    (s.key.keyState ≠ .idle → 1000000 < s.time.toNat - s.key.lastT.toNat →
      (∃ s', exec .stop s = .next s' ∧ exec (.updatePaddle d h) s = exec (.updatePaddle d h) s')
      ∧ (∃ t, exec (.updatePaddle false false) s = .next t ∧ t.key.keyState = .idle ∧ t.key.keyAsserted = false
          ∧ t.radioKey = s.radioKey ++ (if s.cfg.radioPresent then [⟨false, s.time⟩] else [])))
    ∧ (s.key.keyState = .idle ∨ s.time.toNat - s.key.lastT.toNat ≤ 1000000 →
      ∃ t, exec (.updatePaddle d h) s = .next t ∧ t.radioKey = s.radioKey ∧ t.key.keyAsserted = s.key.keyAsserted)

/-- R100, R103: STOP emits a key-up in every case, clears latches, snapshots and the tone guard, makes the keyer Idle now, and stops the engine;
the live paddles, the element and the mode stay, and nothing else changes. -/
def Obligations.StopReleasesTheKeyAndTheEngine : Prop :=
  ∀ s : State, ∃ t u, exec .stop s = .next t ∧ exec .engineStop s = .next u
    ∧ t = { s with
        key := { s.key with
          keyAsserted := false, latchDit := false, latchDah := false, toneSnapDit := false, toneSnapDah := false
          silSnapDit := false, silSnapDah := false, toneActive := false, keyState := .idle, lastT := s.time }
        play := u.play
        radioKey := s.radioKey ++ (if s.cfg.radioPresent then [⟨false, s.time⟩] else []) }

/-- R104: SET_MODE_B writes K.MODE_B alone, and Mode A differs from Mode B only by disabling rule (3) of the decision. -/
def Obligations.ModeBSelectsTheTrailingElement : Prop :=
  (∀ (b : Bool) (s : State), exec (.setModeB b) s = .next { s with key := { s.key with modeB := b } })
  ∧ ∀ k : Keyer,
      ({ k with modeB := true }.decideNext ≠ { k with modeB := false }.decideNext ↔
        k.pressed k.element.opposite = false ∧ k.latch k.element.opposite = false
          ∧ k.silSnap k.element = false ∧ k.pressed k.element = false
          ∧ k.toneSnapDit = true ∧ k.toneSnapDah = true)
      ∧ ({ k with modeB := true }.decideNext ≠ { k with modeB := false }.decideNext →
          { k with modeB := true }.decideNext = some k.element.opposite
            ∧ { k with modeB := false }.decideNext = none)

/-- R105: SWAP_ENGINE gives every playback field its reset value and changes nothing else: configuration, patches and keyer stay. -/
def Obligations.SwapEngineResetsPlaybackAlone : Prop :=
  ∀ s : State, exec .swapEngine s = .next { s with
    play := {
      engState := .silent, pos := 0, sustainLeft := 0, silenceLeft := 0, indefinite := false, qTone := none, qSil := none
      beforeEndFired := false, startPending := false, completePending := false, idlePending := false } }

/-- R86, R106, R110, R111: the handlers of OnToneStart and OnSilenceComplete, and OnBecomeIdle's way to the IDLE port, each with all it leaves. -/
def Obligations.StartAndSilenceHandlersAct : Prop :=
  ∀ s : State,
    (s.key.keyState = .idle → s.fire .toneStart = s)
    ∧ (s.key.keyState ≠ .idle →
        s.fire .toneStart = { s with
          key := { s.key with
            toneSnapDit := s.key.dit, toneSnapDah := s.key.dah, toneActive := true, keyAsserted := true
            keyState := .tonePlaying, lastT := s.time }
          radioKey := s.radioKey ++ (if s.cfg.radioPresent then [⟨true, s.time⟩] else []) })
    ∧ (s.key.keyState ≠ .interElementSpace → s.fire .silenceComplete = s)
    ∧ (s.key.keyState = .interElementSpace →
        s.fire .silenceComplete = { s with
          key := { s.key with latchDit := false, latchDah := false, keyState := .idle, lastT := s.time } })
    ∧ s.fire .becomeIdle = { s with idle := s.idle ++ [s.time] }

/-- R107: OnToneComplete, for the keyer's own started element, releases the key, takes the silence snapshot, clears the latches only under
LATCH_CLEAR_AT_TONE_COMPLETE, and queues the gap; otherwise it does nothing. -/
def Obligations.ToneCompleteHandlerQueuesTheGap : Prop :=
  ∀ s : State,
    (¬ (s.key.keyState = .tonePlaying ∧ s.key.toneActive = true) → s.fire .toneComplete = s)
    ∧ (s.key.keyState = .tonePlaying → s.key.toneActive = true →
        s.fire .toneComplete = { s with
          key := { s.key with
            keyAsserted := false, silSnapDit := s.key.dit, silSnapDah := s.key.dah, toneActive := false
            keyState := .interElementSpace, lastT := s.time
            latchDit := if s.cfg.latchClearAtToneComplete then false else s.key.latchDit
            latchDah := if s.cfg.latchClearAtToneComplete then false else s.key.latchDah }
          radioKey := s.radioKey ++ (if s.cfg.radioPresent then [⟨false, s.time⟩] else [])
          play := s.play.queueSilence ⟨1200 * s.cfg.sr / (s.reg.wpm * 1000), none⟩ })

/-- R108: OnBeforeSilenceEnd, in InterElementSpace, sends the decided element: both latches are cleared and its tone is requested; with none decided, or in
another keyer state, it does nothing. -/
def Obligations.DecisionHandlerRequestsTheNextElement : Prop :=
  ∀ s : State,
    (s.key.keyState ≠ .interElementSpace ∨ s.key.decideNext = none → s.fire .beforeSilenceEnd = s)
    ∧ ∀ e, s.key.keyState = .interElementSpace → s.key.decideNext = some e →
        s.fire .beforeSilenceEnd = { s with
          key := { s.key with element := e, latchDit := false, latchDah := false }
          play := s.play.toneRequest s.reg
            (.timed ((if e = .dit then 1200 else 3600) * s.cfg.sr / (s.reg.wpm * 1000))) }

/-- R109: the decision, in its priority order; and after rule (3) has sent an element, whose own tone snapshot is taken with both paddles
released, rule (3) does not hold again. -/
def Obligations.DecisionFollowsThePriorityOrder : Prop :=
  ∀ k : Keyer,
    (k.element = .dit → k.decideNext =
      if k.dah = true ∨ k.latchDah = true then some .dah
      else if k.silSnapDit = true ∨ k.dit = true then some .dit
      else if k.modeB = true ∧ k.toneSnapDit = true ∧ k.toneSnapDah = true ∧ k.dit = false ∧ k.dah = false then some .dah
      else none)
    ∧ (k.element = .dah → k.decideNext =
      if k.dit = true ∨ k.latchDit = true then some .dit
      else if k.silSnapDah = true ∨ k.dah = true then some .dah
      else if k.modeB = true ∧ k.toneSnapDit = true ∧ k.toneSnapDah = true ∧ k.dit = false ∧ k.dah = false then some .dit
      else none)
    ∧ (k.completesSqueeze = true → ∀ now, (k.startTone now).completesSqueeze = false)

/-- R113, the dit paddle: with the dah paddle never pressed, no operation makes the keyer latch, snapshot or send a dah; and with the dit held, every
decision is a dit. -/
def Obligations.DitPaddleAloneNeverSendsADah : Prop :=
  (∀ (i : Instr) (s t : State), s.key.DitOnly → (∀ d, i ≠ .updatePaddle d true) → exec i s = .next t → t.key.DitOnly)
  ∧ (∀ k : Keyer, k.DitOnly → k.keyState = .interElementSpace → k.dit = true → k.decideNext = some .dit)

/-- R114: with both paddles held, every decision is the opposite element, in either mode. -/
def Obligations.HeldSqueezeAlternates : Prop :=
  ∀ k : Keyer, k.dit = true → k.dah = true → k.decideNext = some k.element.opposite

/-- 10_state.md section 2 and 43_keyer.md section 4 (R19, R20, R112): an operation only adds to the RADIO_KEY trace, only entries of its own TIME, none when
no sink is present, none from an operation that runs no handler and no keyerStop, and a key-down only from READ; only READ adds to the IDLE trace; and to
the sample stream READ adds exactly its count, and no other operation anything (42_engine_read.md section 1). -/
def Obligations.OutputTracesOnlyGrowAtTheirSources : Prop :=
  ∀ (i : Instr) (s t : State), exec i s = .next t →
    (∃ l, t.radioKey = s.radioKey ++ l
      ∧ (∀ e ∈ l, e.t = s.time ∧ (e.asserted = true → ∃ n, i = .read n))
      ∧ (s.cfg.radioPresent = false → l = []) ∧ (mayKey i = false → l = []))
    ∧ (∃ l, t.idle = s.idle ++ l ∧ (∀ x ∈ l, x = s.time) ∧ ((∀ n, i ≠ .read n) → l = []))
    ∧ ∃ l, t.samples = s.samples ++ l ∧ (∀ n, i = .read n → l.length = n.toNat) ∧ ((∀ n, i ≠ .read n) → l = [])

/-! ## The machine -/

/-- 20_memory.md section 3: when the word at the head of the input decodes to an operation and TIME has not decreased, a step is that
operation at the state that has taken its command: its TIME is `now`, a READ's buffer is its own, and nothing else has changed. -/
def Obligations.StepRunsTheDecodedOperation : Prop :=
  ∀ (s : State) (c : Command) (rest : List Command) (i : Instr), s.input = c :: rest →
    s.time.toNat ≤ c.time.toNat → decode c.word = .ok i →
    step s = exec i { s with
      input := rest, time := c.time
      buf := match i with
        | .read _ => c.buffer
        | _ => s.buf }

/-- 60_exceptions.md section 5 (R133) and section 1 (R120.2): with no operation waiting a step changes nothing; with a TIME below the previous one it is
refused. -/
def Obligations.StepWaitsAndKeepsTimeOrder : Prop :=
  (∀ s : State, s.input = [] → step s = .next s)
  ∧ ∀ (s : State) (c : Command) (rest : List Command), s.input = c :: rest → c.time.toNat < s.time.toNat →
      step s = .refused .timeDecreased

/-- R118: in every state every well-formed word completes, when TIME has not decreased and a READ has its slots. -/
def Obligations.WellFormedWordsComplete : Prop :=
  ∀ (s : State) (c : Command) (rest : List Command) (i : Instr), s.input = c :: rest → s.time.toNat ≤ c.time.toNat →
    decode c.word = .ok i → (∀ n, i = .read n → n.toNat ≤ c.buffer.length) → ∃ t, step s = .next t

/-- 60_exceptions.md section 1 (R120): a step is a next state or a refusal, never a fault; its reasons are an ill-formed word and a TIME that decreases, and
besides R120's list a READ with too few slots, which 93_implementation_defined.md section 2 (I20) refuses and which the model refuses under its own name
(log 7); and the machine is built only from admitted parameters. -/
def Obligations.RefusalReasonsAreClosed : Prop :=
  (∀ s : State, (∃ t, step s = .next t) ∨ (∃ why, step s = .refused (.illFormed why)) ∨ step s = .refused .timeDecreased
    ∨ step s = .refused .bufferTooShort)
  ∧ ∀ (c : Config) (t0 : Time),
      (c.Admitted → State.build c t0 = .ok (State.resetWith c t0))
      ∧ (¬ c.Admitted → State.build c t0 = .error .parameterOutOfRange)

/-- 10_state.md R18 and 00_scope.md R8: a step never lowers TIME, never changes a parameter, and takes at most the head of the input. -/
def Obligations.StepKeepsTimeAndParameters : Prop :=
  ∀ s t : State, step s = .next t →
    s.time.toNat ≤ t.time.toNat ∧ t.cfg = s.cfg ∧ t.input = s.input.tail

/-- 10_state.md R24 with 40_engine_config.md: every step keeps the machine consistent: legal registers, the ramp and the patches of the current
frequency, speed and volume, an orderly playback state, and K.LAST_T not after TIME. -/
def Obligations.StepKeepsConsistency : Prop := ∀ s t : State, s.Consistent → step s = .next t → t.Consistent

/-- R134 with 10_state.md R24: the machine is consistent after reset, at every admitted parameter value and every TIME of reset. -/
def Obligations.ResetIsConsistent : Prop :=
  (∀ (c : Config) (t0 : Time), c.Admitted → (State.resetWith c t0).Consistent) ∧ State.reset.Consistent

/-- 00_scope.md R9 with 10_state.md R21 and R23: no count ever exceeds the width its field has, so none can overflow: it holds after reset and every
step keeps it. -/
def Obligations.CountsFitTheirFields : Prop :=
  (∀ (c : Config) (t0 : Time), c.Admitted → (State.resetWith c t0).FitsWidths)
  ∧ ∀ s t : State, s.Consistent → s.FitsWidths → step s = .next t → t.FitsWidths

/-- R134: every field after reset, for every admitted parameter value and TIME of reset; the configuration is what SET_FREQUENCY, SET_VOLUME and SET_WPM with
the reset values make of it; reset produces no output. -/
def Obligations.ResetHasItsStatedValues : Prop :=
  ∀ (c : Config) (t0 : Time), c.Admitted →
    let s := State.resetWith c t0
    s.cfg = c ∧ s.reg.freqHz = c.resetFreqHz ∧ s.reg.vol = c.resetVolume ∧ s.reg.wpm = c.resetWpm
    ∧ s.reg.spc = roundTies c.roundTies c.sr c.resetFreqHz ∧ s.reg.gain * 100 = c.resetVolume
    ∧ s.reg.rampCycles = rampCyclesOf c.roundTies c.sr s.reg.spc c.resetWpm ∧ s.reg.l = s.reg.rampCycles * s.reg.spc
    ∧ s.reg.cycle.length = s.reg.spc ∧ s.reg.rampUp.length = s.reg.l ∧ s.reg.rampDown.length = s.reg.l
    ∧ s.play = {
        engState := .silent, pos := 0, sustainLeft := 0, silenceLeft := 0, indefinite := false, qTone := none, qSil := none
        beforeEndFired := false, startPending := false, completePending := false, idlePending := false }
    ∧ s.key = {
        keyState := .idle, dit := false, dah := false, latchDit := false, latchDah := false, toneSnapDit := false
        toneSnapDah := false, silSnapDit := false, silSnapDah := false, element := .dit, modeB := c.resetModeB
        keyAsserted := false, toneActive := false, lastT := t0 }
    ∧ s.readResult = none ∧ s.samples = [] ∧ s.radioKey = [] ∧ s.idle = []
    ∧ exec (.setFrequency (BitVec.ofNat 24 c.resetFreqHz)) s = .next s
    ∧ exec (.setVolume (BitVec.ofNat 24 c.resetVolume)) s = .next s
    ∧ exec (.setWpm (BitVec.ofNat 24 c.resetWpm)) s = .next s

/-- R113, the dah paddle: with the dit paddle never pressed, no operation makes the keyer latch, snapshot or send a dit; and with the dah held, every
decision is a dah. -/
def Obligations.DahPaddleAloneNeverSendsADit : Prop :=
  (∀ (i : Instr) (s t : State), s.key.DahOnly → (∀ h, i ≠ .updatePaddle true h) → exec i s = .next t → t.key.DahOnly)
  ∧ (∀ k : Keyer, k.DahOnly → k.keyState = .interElementSpace → k.dah = true → k.decideNext = some .dah)

/-- 70_reset_and_hazards.md section 3 (R139): what is observed of a finite sequence of operations has all that was observed before it, and one more sample
for each sample that its READs ask for; and a sequence of operations of any length is observed, when their words decode, their TIMEs never decrease and
their READs bring their slots: there is no end of run. -/
def Obligations.ObservationCollectsEveryOutput : Prop :=
  (∀ (k : Nat) (s : State) (o : Observation), s.observeAfter k = some o →
    (∃ l, o.samples = s.samples ++ l ∧ l.length = ((s.input.take k).map (fun c => slotsFor c.word)).sum)
    ∧ s.radioKey <+: o.radioKey ∧ s.idle <+: o.idle ∧ o.state.input = s.input.drop k
    ∧ o.samples = o.state.samples ∧ o.radioKey = o.state.radioKey ∧ o.idle = o.state.idle)
  ∧ ∀ (k : Nat) (s : State),
      (∀ c ∈ s.input, (∃ i, decode c.word = .ok i) ∧ slotsFor c.word ≤ c.buffer.length) →
      (s.time :: s.input.map Command.time).Pairwise (fun t u => t.toNat ≤ u.toNat) → ∃ o, s.observeAfter k = some o
end

