-- ==== Sys2Proof/Laws/Codec.lean ====
section
/-! SUPPORT. The fields of a packed word, and what decoding does by opcode. -/

namespace Sys2Proof

/-- A bit of a packed word, by the field it falls in (R44). -/
theorem pack_getLsbD (op : BitVec 8) (p1 p0 : Bool) (a b : Operand) (i : Nat) :
    (pack op p1 p0 a b).getLsbD i =
      if i < 24 then b.getLsbD i
      else if i < 48 then a.getLsbD (i - 24)
      else if i < 49 then p0
      else if i < 50 then p1
      else if i < 56 then false
      else op.getLsbD (i - 56) := by
  unfold pack
  simp only [BitVec.getLsbD_append]
  by_cases h1 : i < 24
  · rw [if_pos h1]
    simp only [show i < 24 + 24 by omega, show i < 1 + (24 + 24) by omega, show i < 1 + (1 + (24 + 24)) by omega,
      show i < 6 + (1 + (1 + (24 + 24))) by omega, h1, if_true]
  by_cases h2 : i < 48
  · rw [if_neg h1, if_pos h2]
    simp only [show i < 24 + 24 by omega, show i < 1 + (24 + 24) by omega, show i < 1 + (1 + (24 + 24)) by omega,
      show i < 6 + (1 + (1 + (24 + 24))) by omega, h1, if_true, if_false]
  by_cases h3 : i < 49
  · obtain rfl : i = 48 := by omega
    simp
  by_cases h4 : i < 50
  · obtain rfl : i = 49 := by omega
    simp
  by_cases h5 : i < 56
  · simp only [show ¬ i < 24 + 24 by omega, show ¬ i < 1 + (24 + 24) by omega, show ¬ i < 1 + (1 + (24 + 24)) by omega,
      show i < 6 + (1 + (1 + (24 + 24))) by omega, h1, if_true, if_false]
    simp
  · simp only [show ¬ i < 6 + (1 + (1 + (24 + 24))) by omega, h1, h2, h3, h4, if_false]

@[simp] theorem opField_pack (op : BitVec 8) (p1 p0 : Bool) (a b : Operand) : opField (pack op p1 p0 a b) = op := by
  refine BitVec.eq_of_getLsbD_eq fun i h => ?_
  simp only [opField, BitVec.getLsbD_extractLsb', h, decide_true, Bool.true_and, pack_getLsbD]
  rw [if_neg (by omega), if_neg (by omega), if_neg (by omega), if_neg (by omega), if_neg (by omega)]
  congr 1
  omega

@[simp] theorem resField_pack (op : BitVec 8) (p1 p0 : Bool) (a b : Operand) : resField (pack op p1 p0 a b) = 0#6 := by
  refine BitVec.eq_of_getLsbD_eq fun i h => ?_
  simp only [resField, BitVec.getLsbD_extractLsb', h, decide_true, Bool.true_and, pack_getLsbD]
  rw [if_neg (by omega), if_neg (by omega), if_neg (by omega), if_neg (by omega), if_pos (by omega)]
  simp

@[simp] theorem p1Field_pack (op : BitVec 8) (p1 p0 : Bool) (a b : Operand) : p1Field (pack op p1 p0 a b) = p1 := by
  rw [p1Field, pack_getLsbD]
  rfl

@[simp] theorem p0Field_pack (op : BitVec 8) (p1 p0 : Bool) (a b : Operand) : p0Field (pack op p1 p0 a b) = p0 := by
  rw [p0Field, pack_getLsbD]
  rfl

@[simp] theorem aField_pack (op : BitVec 8) (p1 p0 : Bool) (a b : Operand) : aField (pack op p1 p0 a b) = a := by
  refine BitVec.eq_of_getLsbD_eq fun i h => ?_
  simp only [aField, BitVec.getLsbD_extractLsb', h, decide_true, Bool.true_and, pack_getLsbD]
  rw [if_neg (by omega), if_pos (by omega)]
  congr 1
  omega

@[simp] theorem bField_pack (op : BitVec 8) (p1 p0 : Bool) (a b : Operand) : bField (pack op p1 p0 a b) = b := by
  refine BitVec.eq_of_getLsbD_eq fun i h => ?_
  simp only [bField, BitVec.getLsbD_extractLsb', h, decide_true, Bool.true_and, pack_getLsbD]
  rw [if_pos (by omega)]
  congr 1
  omega

/-- A word with RES = 0 is the packing of its fields (R44). -/
theorem pack_fields (w : CmdWord) (h : resField w = 0#6) :
    pack (opField w) (p1Field w) (p0Field w) (aField w) (bField w) = w := by
  refine BitVec.eq_of_getLsbD_eq fun i hi => ?_
  rw [pack_getLsbD]
  split_ifs with h1 h2 h3 h4 h5
  · simp [bField, h1]
  · simp [aField, show i - 24 < 24 by omega, show 24 + (i - 24) = i by omega]
  · obtain rfl : i = 48 := by omega
    rfl
  · obtain rfl : i = 49 := by omega
    rfl
  · have hb := congrArg (fun v => v.getLsbD (i - 50)) h
    simpa [resField, show i - 50 < 6 by omega, show 50 + (i - 50) = i by omega] using hb.symm
  · simp [opField, show i - 56 < 8 by omega, show 56 + (i - 56) = i by omega]

theorem whenUnusedZero_ok {b : Bool} {i j : Instr} : whenUnusedZero b i = .ok j ↔ b = true ∧ i = j := by
  unfold whenUnusedZero; split <;> simp_all

end Sys2Proof
end

