-- ==== Sys2Proof/Laws/State.lean ====
section
/-! SUPPORT. What each shared operation leaves unchanged, said once and field by field. The lemmas are conjunctions, which simp uses part by part. -/

namespace Sys2Proof.Machine

/-! ### The keyer -/

@[simp] theorem Keyer.setKeyState_fields (k : Keyer) (st : KeyState) (now : Time) :
    (k.setKeyState st now).keyState = st ∧ (k.setKeyState st now).lastT = now
      ∧ (k.setKeyState st now).dit = k.dit ∧ (k.setKeyState st now).dah = k.dah
      ∧ (k.setKeyState st now).latchDit = k.latchDit ∧ (k.setKeyState st now).latchDah = k.latchDah
      ∧ (k.setKeyState st now).toneSnapDit = k.toneSnapDit ∧ (k.setKeyState st now).toneSnapDah = k.toneSnapDah
      ∧ (k.setKeyState st now).silSnapDit = k.silSnapDit ∧ (k.setKeyState st now).silSnapDah = k.silSnapDah
      ∧ (k.setKeyState st now).element = k.element ∧ (k.setKeyState st now).modeB = k.modeB
      ∧ (k.setKeyState st now).keyAsserted = k.keyAsserted ∧ (k.setKeyState st now).toneActive = k.toneActive := by
  simp [Keyer.setKeyState]

@[simp] theorem Keyer.clearLatches_fields (k : Keyer) :
    k.clearLatches.keyState = k.keyState ∧ k.clearLatches.lastT = k.lastT
      ∧ k.clearLatches.dit = k.dit ∧ k.clearLatches.dah = k.dah
      ∧ k.clearLatches.latchDit = false ∧ k.clearLatches.latchDah = false
      ∧ k.clearLatches.toneSnapDit = k.toneSnapDit ∧ k.clearLatches.toneSnapDah = k.toneSnapDah
      ∧ k.clearLatches.silSnapDit = k.silSnapDit ∧ k.clearLatches.silSnapDah = k.silSnapDah
      ∧ k.clearLatches.element = k.element ∧ k.clearLatches.modeB = k.modeB
      ∧ k.clearLatches.keyAsserted = k.keyAsserted ∧ k.clearLatches.toneActive = k.toneActive := by
  simp [Keyer.clearLatches]

@[simp] theorem Keyer.clearSnapshots_fields (k : Keyer) :
    k.clearSnapshots.keyState = k.keyState ∧ k.clearSnapshots.lastT = k.lastT
      ∧ k.clearSnapshots.dit = k.dit ∧ k.clearSnapshots.dah = k.dah
      ∧ k.clearSnapshots.latchDit = k.latchDit ∧ k.clearSnapshots.latchDah = k.latchDah
      ∧ k.clearSnapshots.toneSnapDit = false ∧ k.clearSnapshots.toneSnapDah = false
      ∧ k.clearSnapshots.silSnapDit = false ∧ k.clearSnapshots.silSnapDah = false
      ∧ k.clearSnapshots.element = k.element ∧ k.clearSnapshots.modeB = k.modeB
      ∧ k.clearSnapshots.keyAsserted = k.keyAsserted ∧ k.clearSnapshots.toneActive = k.toneActive := by
  simp [Keyer.clearSnapshots]

@[simp] theorem Keyer.captureToneSnap_fields (k : Keyer) :
    k.captureToneSnap.keyState = k.keyState ∧ k.captureToneSnap.lastT = k.lastT
      ∧ k.captureToneSnap.dit = k.dit ∧ k.captureToneSnap.dah = k.dah
      ∧ k.captureToneSnap.latchDit = k.latchDit ∧ k.captureToneSnap.latchDah = k.latchDah
      ∧ k.captureToneSnap.toneSnapDit = k.dit ∧ k.captureToneSnap.toneSnapDah = k.dah
      ∧ k.captureToneSnap.silSnapDit = k.silSnapDit ∧ k.captureToneSnap.silSnapDah = k.silSnapDah
      ∧ k.captureToneSnap.element = k.element ∧ k.captureToneSnap.modeB = k.modeB
      ∧ k.captureToneSnap.keyAsserted = k.keyAsserted ∧ k.captureToneSnap.toneActive = k.toneActive := by
  simp [Keyer.captureToneSnap]

@[simp] theorem Keyer.captureSilSnap_fields (k : Keyer) :
    k.captureSilSnap.keyState = k.keyState ∧ k.captureSilSnap.lastT = k.lastT
      ∧ k.captureSilSnap.dit = k.dit ∧ k.captureSilSnap.dah = k.dah
      ∧ k.captureSilSnap.latchDit = k.latchDit ∧ k.captureSilSnap.latchDah = k.latchDah
      ∧ k.captureSilSnap.toneSnapDit = k.toneSnapDit ∧ k.captureSilSnap.toneSnapDah = k.toneSnapDah
      ∧ k.captureSilSnap.silSnapDit = k.dit ∧ k.captureSilSnap.silSnapDah = k.dah
      ∧ k.captureSilSnap.element = k.element ∧ k.captureSilSnap.modeB = k.modeB
      ∧ k.captureSilSnap.keyAsserted = k.keyAsserted ∧ k.captureSilSnap.toneActive = k.toneActive := by
  simp [Keyer.captureSilSnap]

@[simp] theorem Keyer.setPaddles_fields (k : Keyer) (d h : Bool) :
    (k.setPaddles d h).keyState = k.keyState ∧ (k.setPaddles d h).lastT = k.lastT
      ∧ (k.setPaddles d h).dit = d ∧ (k.setPaddles d h).dah = h
      ∧ (k.setPaddles d h).latchDit = k.latchDit ∧ (k.setPaddles d h).latchDah = k.latchDah
      ∧ (k.setPaddles d h).toneSnapDit = k.toneSnapDit ∧ (k.setPaddles d h).toneSnapDah = k.toneSnapDah
      ∧ (k.setPaddles d h).silSnapDit = k.silSnapDit ∧ (k.setPaddles d h).silSnapDah = k.silSnapDah
      ∧ (k.setPaddles d h).element = k.element ∧ (k.setPaddles d h).modeB = k.modeB
      ∧ (k.setPaddles d h).keyAsserted = k.keyAsserted ∧ (k.setPaddles d h).toneActive = k.toneActive := by
  simp [Keyer.setPaddles]

@[simp] theorem Keyer.latchEdges_fields (k : Keyer) (oldD oldH refD refH : Bool) :
    (k.latchEdges oldD oldH refD refH).keyState = k.keyState ∧ (k.latchEdges oldD oldH refD refH).lastT = k.lastT
      ∧ (k.latchEdges oldD oldH refD refH).dit = k.dit ∧ (k.latchEdges oldD oldH refD refH).dah = k.dah
      ∧ (k.latchEdges oldD oldH refD refH).latchDit = (k.latchDit || newlyPressed k.dit oldD refD)
      ∧ (k.latchEdges oldD oldH refD refH).latchDah = (k.latchDah || newlyPressed k.dah oldH refH)
      ∧ (k.latchEdges oldD oldH refD refH).toneSnapDit = k.toneSnapDit
      ∧ (k.latchEdges oldD oldH refD refH).toneSnapDah = k.toneSnapDah
      ∧ (k.latchEdges oldD oldH refD refH).silSnapDit = k.silSnapDit
      ∧ (k.latchEdges oldD oldH refD refH).silSnapDah = k.silSnapDah
      ∧ (k.latchEdges oldD oldH refD refH).element = k.element ∧ (k.latchEdges oldD oldH refD refH).modeB = k.modeB
      ∧ (k.latchEdges oldD oldH refD refH).keyAsserted = k.keyAsserted
      ∧ (k.latchEdges oldD oldH refD refH).toneActive = k.toneActive := by
  simp [Keyer.latchEdges]

/-! ### The whole state: what the operations inside a step never touch -/

@[simp] theorem State.setPlay_fields (s : State) (p : Playback) :
    (s.setPlay p).cfg = s.cfg ∧ (s.setPlay p).reg = s.reg ∧ (s.setPlay p).play = p ∧ (s.setPlay p).key = s.key
      ∧ (s.setPlay p).input = s.input ∧ (s.setPlay p).time = s.time ∧ (s.setPlay p).buf = s.buf
      ∧ (s.setPlay p).samples = s.samples
      ∧ (s.setPlay p).readResult = s.readResult ∧ (s.setPlay p).radioKey = s.radioKey
      ∧ (s.setPlay p).idle = s.idle := by
  simp [State.setPlay]

@[simp] theorem State.setKey_fields (s : State) (k : Keyer) :
    (s.setKey k).cfg = s.cfg ∧ (s.setKey k).reg = s.reg ∧ (s.setKey k).play = s.play ∧ (s.setKey k).key = k
      ∧ (s.setKey k).input = s.input ∧ (s.setKey k).time = s.time ∧ (s.setKey k).buf = s.buf
      ∧ (s.setKey k).samples = s.samples
      ∧ (s.setKey k).readResult = s.readResult ∧ (s.setKey k).radioKey = s.radioKey
      ∧ (s.setKey k).idle = s.idle := by
  simp [State.setKey]

@[simp] theorem State.emitKey_fields (s : State) (a : Bool) :
    (s.emitKey a).cfg = s.cfg ∧ (s.emitKey a).reg = s.reg ∧ (s.emitKey a).play = s.play ∧ (s.emitKey a).key = s.key
      ∧ (s.emitKey a).input = s.input ∧ (s.emitKey a).time = s.time ∧ (s.emitKey a).buf = s.buf
      ∧ (s.emitKey a).samples = s.samples
      ∧ (s.emitKey a).readResult = s.readResult ∧ (s.emitKey a).idle = s.idle := by
  simp [State.emitKey]

/-- What a key transition adds to the RADIO_KEY trace. -/
theorem State.emitKey_radioKey (s : State) (a : Bool) :
    (s.emitKey a).radioKey = s.radioKey ++ if s.cfg.radioPresent then [⟨a, s.time⟩] else [] := rfl

@[simp] theorem State.emitIdle_fields (s : State) :
    s.emitIdle.cfg = s.cfg ∧ s.emitIdle.reg = s.reg ∧ s.emitIdle.play = s.play ∧ s.emitIdle.key = s.key
      ∧ s.emitIdle.input = s.input ∧ s.emitIdle.time = s.time ∧ s.emitIdle.buf = s.buf ∧ s.emitIdle.samples = s.samples
      ∧ s.emitIdle.readResult = s.readResult ∧ s.emitIdle.radioKey = s.radioKey
      ∧ s.emitIdle.idle = s.idle ++ [s.time] := by
  simp [State.emitIdle]

@[simp] theorem State.startTone_fields (s : State) (d : Millis) :
    (s.startTone d).cfg = s.cfg ∧ (s.startTone d).reg = s.reg ∧ (s.startTone d).key = s.key
      ∧ (s.startTone d).input = s.input ∧ (s.startTone d).time = s.time ∧ (s.startTone d).buf = s.buf
      ∧ (s.startTone d).samples = s.samples
      ∧ (s.startTone d).readResult = s.readResult ∧ (s.startTone d).radioKey = s.radioKey
      ∧ (s.startTone d).idle = s.idle
      ∧ (s.startTone d).play = s.play.toneRequest s.reg (.timed (toSamples s.cfg.sr d)) := by
  simp [State.startTone]

@[simp] theorem State.queueSilence_fields (s : State) (d : Millis) (f : Option Millis) :
    (s.queueSilence d f).cfg = s.cfg ∧ (s.queueSilence d f).reg = s.reg ∧ (s.queueSilence d f).key = s.key
      ∧ (s.queueSilence d f).input = s.input ∧ (s.queueSilence d f).time = s.time ∧ (s.queueSilence d f).buf = s.buf
      ∧ (s.queueSilence d f).samples = s.samples
      ∧ (s.queueSilence d f).readResult = s.readResult ∧ (s.queueSilence d f).radioKey = s.radioKey
      ∧ (s.queueSilence d f).idle = s.idle
      ∧ (s.queueSilence d f).play
          = s.play.queueSilence ⟨toSamples s.cfg.sr d, f.map (toSamples s.cfg.sr)⟩ := by
  simp [State.queueSilence]

@[simp] theorem State.engineStop_fields (s : State) :
    s.engineStop.cfg = s.cfg ∧ s.engineStop.reg = s.reg ∧ s.engineStop.key = s.key
      ∧ s.engineStop.input = s.input ∧ s.engineStop.time = s.time ∧ s.engineStop.buf = s.buf
      ∧ s.engineStop.samples = s.samples
      ∧ s.engineStop.readResult = s.readResult ∧ s.engineStop.radioKey = s.radioKey ∧ s.engineStop.idle = s.idle
      ∧ s.engineStop.play = s.play.stop s.cfg.stopPolicy s.reg := by
  simp [State.engineStop]

@[simp] theorem State.startFromIdle_fields (s : State) (e : Element) :
    (s.startFromIdle e).cfg = s.cfg ∧ (s.startFromIdle e).reg = s.reg ∧ (s.startFromIdle e).input = s.input
      ∧ (s.startFromIdle e).time = s.time ∧ (s.startFromIdle e).buf = s.buf ∧ (s.startFromIdle e).samples = s.samples
      ∧ (s.startFromIdle e).readResult = s.readResult ∧ (s.startFromIdle e).radioKey = s.radioKey
      ∧ (s.startFromIdle e).idle = s.idle ∧ (s.startFromIdle e).key = s.key.beginElement e s.time
      ∧ (s.startFromIdle e).play
          = s.play.toneRequest s.reg (.timed (toSamples s.cfg.sr (elementMs s.reg.wpm e))) := by
  simp [State.startFromIdle]

@[simp] theorem State.keyerStop_fields (s : State) :
    s.keyerStop.cfg = s.cfg ∧ s.keyerStop.reg = s.reg ∧ s.keyerStop.input = s.input
      ∧ s.keyerStop.time = s.time ∧ s.keyerStop.buf = s.buf
      ∧ s.keyerStop.samples = s.samples ∧ s.keyerStop.readResult = s.readResult
      ∧ s.keyerStop.idle = s.idle ∧ s.keyerStop.key = s.key.stopped s.time
      ∧ s.keyerStop.play = s.play.stop s.cfg.stopPolicy s.reg := by
  simp [State.keyerStop]

/-- `keyerStop` adds exactly one key-up to the RADIO_KEY trace, where a sink is present. -/
theorem State.keyerStop_radioKey (s : State) :
    s.keyerStop.radioKey = s.radioKey ++ if s.cfg.radioPresent then [⟨false, s.time⟩] else [] := by
  simp [State.keyerStop, State.emitKey_radioKey]

@[simp] theorem State.onToneStart_fields (s : State) :
    s.onToneStart.cfg = s.cfg ∧ s.onToneStart.reg = s.reg ∧ s.onToneStart.play = s.play
      ∧ s.onToneStart.input = s.input ∧ s.onToneStart.time = s.time ∧ s.onToneStart.buf = s.buf
      ∧ s.onToneStart.samples = s.samples
      ∧ s.onToneStart.readResult = s.readResult ∧ s.onToneStart.idle = s.idle := by
  unfold State.onToneStart; split <;> simp

@[simp] theorem State.onToneComplete_fields (s : State) :
    s.onToneComplete.cfg = s.cfg ∧ s.onToneComplete.reg = s.reg
      ∧ s.onToneComplete.input = s.input ∧ s.onToneComplete.time = s.time ∧ s.onToneComplete.buf = s.buf
      ∧ s.onToneComplete.samples = s.samples
      ∧ s.onToneComplete.readResult = s.readResult ∧ s.onToneComplete.idle = s.idle := by
  unfold State.onToneComplete; split <;> simp

@[simp] theorem State.onBeforeSilenceEnd_fields (s : State) :
    s.onBeforeSilenceEnd.cfg = s.cfg ∧ s.onBeforeSilenceEnd.reg = s.reg
      ∧ s.onBeforeSilenceEnd.input = s.input ∧ s.onBeforeSilenceEnd.time = s.time ∧ s.onBeforeSilenceEnd.buf = s.buf
      ∧ s.onBeforeSilenceEnd.samples = s.samples
      ∧ s.onBeforeSilenceEnd.readResult = s.readResult ∧ s.onBeforeSilenceEnd.radioKey = s.radioKey
      ∧ s.onBeforeSilenceEnd.idle = s.idle := by
  unfold State.onBeforeSilenceEnd; split
  · split <;> simp
  · simp

@[simp] theorem State.onSilenceComplete_fields (s : State) :
    s.onSilenceComplete.cfg = s.cfg ∧ s.onSilenceComplete.reg = s.reg ∧ s.onSilenceComplete.play = s.play
      ∧ s.onSilenceComplete.input = s.input ∧ s.onSilenceComplete.time = s.time ∧ s.onSilenceComplete.buf = s.buf
      ∧ s.onSilenceComplete.samples = s.samples
      ∧ s.onSilenceComplete.readResult = s.readResult ∧ s.onSilenceComplete.radioKey = s.radioKey
      ∧ s.onSilenceComplete.idle = s.idle := by
  unfold State.onSilenceComplete; split <;> simp

@[simp] theorem State.fire_fields (s : State) (ev : Event) :
    (s.fire ev).cfg = s.cfg ∧ (s.fire ev).reg = s.reg ∧ (s.fire ev).input = s.input ∧ (s.fire ev).time = s.time
      ∧ (s.fire ev).buf = s.buf ∧ (s.fire ev).samples = s.samples ∧ (s.fire ev).readResult = s.readResult := by
  cases ev <;> simp [State.fire]

@[simp] theorem State.fireOption_fields (s : State) (o : Option Event) :
    (s.fireOption o).cfg = s.cfg ∧ (s.fireOption o).reg = s.reg ∧ (s.fireOption o).input = s.input
      ∧ (s.fireOption o).time = s.time ∧ (s.fireOption o).buf = s.buf ∧ (s.fireOption o).samples = s.samples
      ∧ (s.fireOption o).readResult = s.readResult := by
  cases o <;> simp [State.fireOption]

@[simp] theorem State.conclude_fields (s : State) (a : SettleAction) :
    (s.conclude a).cfg = s.cfg ∧ (s.conclude a).reg = s.reg ∧ (s.conclude a).key = s.key
      ∧ (s.conclude a).input = s.input ∧ (s.conclude a).time = s.time ∧ (s.conclude a).buf = s.buf
      ∧ (s.conclude a).samples = s.samples
      ∧ (s.conclude a).readResult = s.readResult ∧ (s.conclude a).radioKey = s.radioKey
      ∧ (s.conclude a).idle = s.idle := by
  cases a <;> simp [State.conclude]

@[simp] theorem State.perform_fields (s : State) (a : SettleAction) :
    (s.perform a).cfg = s.cfg ∧ (s.perform a).reg = s.reg ∧ (s.perform a).input = s.input
      ∧ (s.perform a).time = s.time ∧ (s.perform a).buf = s.buf
      ∧ (s.perform a).samples = s.samples ∧ (s.perform a).readResult = s.readResult := by
  simp [State.perform]

@[simp] theorem State.settleWithin_fields (fuel : Nat) (s : State) :
    (s.settleWithin fuel).cfg = s.cfg ∧ (s.settleWithin fuel).reg = s.reg ∧ (s.settleWithin fuel).input = s.input
      ∧ (s.settleWithin fuel).time = s.time ∧ (s.settleWithin fuel).buf = s.buf
      ∧ (s.settleWithin fuel).samples = s.samples
      ∧ (s.settleWithin fuel).readResult = s.readResult := by
  induction fuel generalizing s with
  | zero => simp [State.settleWithin]
  | succ fuel ih =>
    unfold State.settleWithin
    split
    · simp
    · simp [ih]

@[simp] theorem State.settle_fields (s : State) :
    s.settle.cfg = s.cfg ∧ s.settle.reg = s.reg ∧ s.settle.input = s.input ∧ s.settle.time = s.time
      ∧ s.settle.buf = s.buf ∧ s.settle.samples = s.samples ∧ s.settle.readResult = s.readResult := by
  simp [State.settle]

@[simp] theorem State.emitInto_fields (s : State) (i : Nat) :
    (s.emitInto i).cfg = s.cfg ∧ (s.emitInto i).reg = s.reg ∧ (s.emitInto i).key = s.key
      ∧ (s.emitInto i).input = s.input ∧ (s.emitInto i).time = s.time
      ∧ (s.emitInto i).readResult = s.readResult ∧ (s.emitInto i).radioKey = s.radioKey
      ∧ (s.emitInto i).idle = s.idle ∧ (s.emitInto i).play = s.play.advance
      ∧ (s.emitInto i).buf = memWrite s.buf i (s.play.currentSample s.reg)
      ∧ (s.emitInto i).samples = s.samples ++ [s.play.currentSample s.reg] := by
  simp [State.emitInto]

@[simp] theorem State.readSlot_fields (s : State) (i : Nat) :
    (s.readSlot i).cfg = s.cfg ∧ (s.readSlot i).reg = s.reg ∧ (s.readSlot i).input = s.input
      ∧ (s.readSlot i).time = s.time ∧ (s.readSlot i).readResult = s.readResult := by
  simp [State.readSlot]

@[simp] theorem State.readSlots_fields (n i : Nat) (s : State) :
    (State.readSlots n i s).cfg = s.cfg ∧ (State.readSlots n i s).reg = s.reg
      ∧ (State.readSlots n i s).input = s.input ∧ (State.readSlots n i s).time = s.time
      ∧ (State.readSlots n i s).readResult = s.readResult := by
  induction n generalizing i s with
  | zero => simp [State.readSlots]
  | succ n ih => simp [State.readSlots, ih]

@[simp] theorem State.readSamples_fields (s : State) (n : Nat) :
    (s.readSamples n).cfg = s.cfg ∧ (s.readSamples n).reg = s.reg ∧ (s.readSamples n).input = s.input
      ∧ (s.readSamples n).time = s.time ∧ (s.readSamples n).readResult = s.readResult := by
  simp [State.readSamples]

end Sys2Proof.Machine
end

