-- ==== Sys2Proof/Laws/Settle.lean ====
section
/-! SUPPORT. What one pass of settle can do to the playback state, said once; that settle returns in a state ready to emit; and the buffer
READ writes. -/

namespace Sys2Proof.Machine

/-! ### The handlers' effect on the playback state -/

/-- The gap the keyer queues at OnToneComplete (R107). -/
def State.gap (s : State) : QueuedSilence := ⟨toSamples s.cfg.sr (gapMs s.reg.wpm), none⟩

/-- The tone the keyer requests for an element (R99, R108). -/
def State.elementTone (s : State) (e : Element) : Tone := .timed (toSamples s.cfg.sr (elementMs s.reg.wpm e))

/-- OnToneComplete leaves the playback state, or queues one gap (R107). -/
theorem State.onToneComplete_play (s : State) (p : Playback) :
    (s.setPlay p).onToneComplete.play = p ∨ (s.setPlay p).onToneComplete.play = p.queueSilence s.gap := by
  unfold State.onToneComplete
  split
  · right; simp [State.gap]
  · left; rfl

/-- OnBeforeSilenceEnd leaves the playback state, or requests one element's tone (R108). -/
theorem State.onBeforeSilenceEnd_play (s : State) (p : Playback) :
    (s.setPlay p).onBeforeSilenceEnd.play = p
      ∨ ∃ e, (s.setPlay p).onBeforeSilenceEnd.play = p.toneRequest s.reg (s.elementTone e) := by
  unfold State.onBeforeSilenceEnd
  split
  · split
    · next e _ => right; exact ⟨e, by simp [State.elementTone]⟩
    · left; rfl
  · left; rfl

/-! ### One pass -/

theorem Playback.startNext_of_ne_silent (r : Registers) {p : Playback} (h : p.engState ≠ .silent) :
    p.startNext r = p := by
  unfold Playback.startNext; split
  · contradiction
  · rfl

/-- At the end of a silence, what is queued begins, else OnBecomeIdle is owed (R84). -/
theorem Playback.leaveSilence_startNext (r : Registers) (p : Playback) :
    (p.leaveSilence r).startNext r =
      match p.qTone with
      | some t => { p with qTone := none }.beginTone r t
      | none =>
        match p.qSil with
        | some q => p.beginSilence q
        | none => { p.endSilence with idlePending := true } := by
  cases ht : p.qTone with
  | some t => simp [Playback.leaveSilence, Playback.startNext, Playback.beginTone, ht]
  | none =>
    cases hs : p.qSil with
    | some q => simp [Playback.leaveSilence, Playback.startNext, Playback.beginSilence, ht, hs]
    | none => simp [Playback.leaveSilence, Playback.startNext, Playback.endSilence, ht, hs]

/-- What one pass does to the playback state, action by action (R81, R82, R84): everything a pass can do, for later proofs to cite. -/
theorem State.perform_play (s : State) (a : SettleAction) :
    match a with
    | .deliverAbandoned => (s.perform a).play = s.play.ackComplete ∨ (s.perform a).play = s.play.ackComplete.queueSilence s.gap
    | .deliverIdle => (s.perform a).play = s.play.ackIdle
    | .deliverStart => (s.perform a).play = s.play.ackStart
    | .rampUpDone => (s.perform a).play = s.play.afterRampUp
    | .sustainDone => (s.perform a).play = s.play.endSustain
    | .cycleDone => (s.perform a).play = s.play.nextCycle
    | .toneEnd => (s.perform a).play = s.play.enterSilent.startNext s.reg
        ∨ (s.perform a).play = s.play.enterSilent.beginSilence s.gap
    | .deliverBeforeEnd => (s.perform a).play = s.play.ackBeforeEnd
        ∨ ∃ e, (s.perform a).play = s.play.ackBeforeEnd.toneRequest s.reg (s.elementTone e)
    | .silenceEnd => (s.perform a).play = (s.play.leaveSilence s.reg).startNext s.reg := by
  cases a <;>
    simp only [State.perform, State.conclude, Playback.prepare, Playback.delivers, State.fireOption, State.fire,
      State.setPlay_fields, State.emitIdle_fields, State.onToneStart_fields]
  · exact s.onToneComplete_play _
  · rcases s.onToneComplete_play s.play.enterSilent with h | h
    · left; simp [h]
    · right
      simp only [State.onToneComplete_fields, State.setPlay_fields, h]
      exact Playback.startNext_of_ne_silent _ (by simp [Playback.queueSilence, Playback.enterSilent, Playback.beginSilence])
  · exact s.onBeforeSilenceEnd_play _
  · by_cases hq : s.play.qTone = none ∧ s.play.qSil = none
    · simp [hq]
    · simp [hq]

/-- What the settle checks say of the state when they find an action (R81). -/
theorem Playback.settleAction_some {r : Registers} {lead : Nat} {p : Playback} {a : SettleAction}
    (h : p.settleAction r lead = some a) :
    match a with
    | .deliverAbandoned => p.completePending = true
    | .deliverIdle => p.completePending = false ∧ p.engState = .silent ∧ p.idlePending = true
    | .deliverStart => p.completePending = false ∧ p.engState = .rampUp ∧ p.startPending = true
    | .rampUpDone => p.completePending = false ∧ p.engState = .rampUp ∧ p.startPending = false ∧ r.l ≤ p.pos
    | .sustainDone => p.completePending = false ∧ p.engState = .sustain ∧ p.indefinite = false ∧ p.sustainLeft = 0
    | .cycleDone => p.completePending = false ∧ p.engState = .sustain
        ∧ ¬ (p.indefinite = false ∧ p.sustainLeft = 0) ∧ r.spc ≤ p.pos
    | .toneEnd => p.completePending = false ∧ p.engState = .rampDown ∧ r.l ≤ p.pos
    | .deliverBeforeEnd => p.completePending = false ∧ p.engState = .timedSilence ∧ p.beforeEndFired = false
        ∧ p.silenceLeft ≤ lead
    | .silenceEnd => p.completePending = false ∧ p.engState = .timedSilence
        ∧ ¬ (p.beforeEndFired = false ∧ p.silenceLeft ≤ lead) ∧ p.silenceLeft = 0 := by
  unfold Playback.settleAction at h
  split at h
  · cases h; assumption
  · split at h <;> split_ifs at h <;> cases h <;> simp_all

/-- What the settle checks say of the state when they find nothing: it is ready to emit (R24, R81). -/
theorem Playback.settleAction_none {r : Registers} {lead : Nat} {p : Playback} (h : p.settleAction r lead = none) :
    p.completePending = false ∧
    match p.engState with
    | .silent => p.idlePending = false
    | .rampUp => p.startPending = false ∧ p.pos < r.l
    | .sustain => ¬ (p.indefinite = false ∧ p.sustainLeft = 0) ∧ p.pos < r.spc
    | .rampDown => p.pos < r.l
    | .timedSilence => ¬ (p.beforeEndFired = false ∧ p.silenceLeft ≤ lead) ∧ p.silenceLeft ≠ 0 := by
  unfold Playback.settleAction at h
  cases hc : p.completePending
  · simp only [hc, Bool.false_eq_true, if_false] at h
    refine ⟨rfl, ?_⟩
    cases hs : p.engState <;> simp only [hs] at h ⊢ <;> split_ifs at h <;> simp_all
  · simp [hc] at h

/-! ### Settling returns -/

/-- How many passes a settle needs when no abandoned tone is owed its OnToneComplete, patches not being empty. -/
def Playback.passesBelow (r : Registers) (lead : Nat) (p : Playback) : Nat :=
  match p.engState with
  | .silent => if p.idlePending then 1 else 0
  | .rampUp => (if p.startPending then 1 else 0) + if r.l ≤ p.pos then 1 else 0
  | .sustain =>
    if p.indefinite = false ∧ p.sustainLeft = 0 then 1
    else if r.spc ≤ p.pos then (if p.indefinite = false ∧ p.sustainLeft = 1 then 2 else 1)
    else 0
  | .rampDown => if r.l ≤ p.pos then 4 else 0
  | .timedSilence =>
    (if p.beforeEndFired = false ∧ p.silenceLeft ≤ lead then 1 else 0)
      + if p.silenceLeft = 0 then (if p.qTone.isNone ∧ p.qSil.isSome then 4 else 2) else 0

/-- A bound on the passes a settle needs (R93). -/
def Playback.passes (r : Registers) (lead : Nat) (p : Playback) : Nat :=
  if p.completePending then 6 else p.passesBelow r lead

theorem Playback.passesBelow_le (r : Registers) (lead : Nat) (p : Playback) : p.passesBelow r lead ≤ 5 := by
  unfold Playback.passesBelow
  split <;> split_ifs <;> omega

theorem Playback.passes_le (r : Registers) (lead : Nat) (p : Playback) : p.passes r lead ≤ 6 := by
  have := p.passesBelow_le r lead
  unfold Playback.passes
  split <;> omega

@[simp] theorem Playback.queueSilence_completePending (p : Playback) (q : QueuedSilence) :
    (p.queueSilence q).completePending = p.completePending := by
  unfold Playback.queueSilence; split <;> rfl

@[simp] theorem Playback.toneRequest_completePending (r : Registers) (p : Playback) (t : Tone) :
    (p.toneRequest r t).completePending = p.completePending := by
  unfold Playback.toneRequest; split <;> (try split) <;> rfl

@[simp] theorem Playback.startNext_completePending (r : Registers) (p : Playback) :
    (p.startNext r).completePending = p.completePending := by
  unfold Playback.startNext; split
  · split
    · rfl
    · split <;> rfl
  · rfl

/-- The settle checks find nothing when no pass is left. -/
theorem Playback.settleAction_eq_none {r : Registers} {lead : Nat} {p : Playback} (h : p.passes r lead = 0) :
    p.settleAction r lead = none := by
  unfold Playback.passes at h
  unfold Playback.settleAction
  split_ifs at h with hc
  simp only [hc, if_false, Bool.false_eq_true]
  unfold Playback.passesBelow at h
  split <;> rename_i he <;> simp only [he] at h <;> split_ifs at h ⊢ <;> simp_all

theorem Playback.passes_beginSilence (r : Registers) (lead : Nat) {p : Playback} (q : QueuedSilence)
    (h : p.completePending = false) : (p.beginSilence q).passes r lead ≤ 3 := by
  simp only [Playback.passes, Playback.passesBelow, Playback.beginSilence, h]
  simp
  split_ifs <;> simp_all

theorem Playback.passes_beginTone {r : Registers} (hne : r.NonEmpty) (lead : Nat) {p : Playback} (t : Tone)
    (h : p.completePending = false) : (p.beginTone r t).passes r lead = 1 := by
  have := hne.2
  simp [Playback.passes, Playback.passesBelow, Playback.beginTone, h]
  omega

theorem Playback.passes_startNext {r : Registers} (hne : r.NonEmpty) (lead : Nat) {p : Playback}
    (hs : p.engState = .silent) (h : p.completePending = false) : (p.startNext r).passes r lead ≤ 3 := by
  unfold Playback.startNext
  rw [hs]
  simp only
  split
  · exact Playback.passes_beginSilence r lead _ h
  · split
    · rw [Playback.passes_beginTone hne lead _ (by exact h)]; omega
    · simp [Playback.passes, Playback.passesBelow, h]

/-- Each pass leaves fewer passes (R93). -/
theorem State.passes_perform_lt (s : State) (hne : s.reg.NonEmpty) {a : SettleAction}
    (h : s.play.settleAction s.reg s.cfg.lead = some a) :
    (s.perform a).play.passes s.reg s.cfg.lead < s.play.passes s.reg s.cfg.lead := by
  have hspc := hne.1
  have hl := hne.2
  have hp := Playback.settleAction_some h
  have hf := s.perform_play a
  cases a with
  | deliverAbandoned =>
    simp only at hp hf
    have hb : (s.perform .deliverAbandoned).play.completePending = false := by
      rcases hf with hf | hf <;> rw [hf] <;> simp [Playback.ackComplete]
    have := Playback.passesBelow_le s.reg s.cfg.lead (s.perform .deliverAbandoned).play
    simp only [Playback.passes, hb, hp, if_true, Bool.false_eq_true, if_false]
    omega
  | deliverIdle =>
    simp only at hp hf
    rw [hf]
    simp [Playback.passes, Playback.passesBelow, Playback.ackIdle, hp]
  | deliverStart =>
    simp only at hp hf
    rw [hf]
    simp [Playback.passes, Playback.passesBelow, Playback.ackStart, hp]
  | rampUpDone =>
    simp only at hp hf
    rw [hf]
    obtain ⟨h1, h2, h3, h4⟩ := hp
    by_cases hs : s.play.indefinite = true ∨ 0 < s.play.sustainLeft
    · have hn : ¬ (s.play.indefinite = false ∧ s.play.sustainLeft = 0) := by
        rintro ⟨ha, hb⟩
        simp [ha, hb] at hs
      simp only [Playback.passes, Playback.passesBelow, Playback.afterRampUp, h1, h2, h3, h4, if_pos hs, if_neg hn]
      simp
      omega
    · simp [Playback.passes, Playback.passesBelow, Playback.afterRampUp, h1, h2, h3, h4, hs]
      omega
  | sustainDone =>
    simp only at hp hf
    rw [hf]
    simp [Playback.passes, Playback.passesBelow, Playback.endSustain, hp]
    omega
  | cycleDone =>
    simp only at hp hf
    rw [hf]
    obtain ⟨h1, h2, h3, h4⟩ := hp
    cases hi : s.play.indefinite
    · simp only [hi, true_and] at h3
      simp [Playback.passes, Playback.passesBelow, Playback.nextCycle, h1, h2, h3, h4, hi]
      split_ifs <;> omega
    · simp [Playback.passes, Playback.passesBelow, Playback.nextCycle, h1, h2, h4, hi]
      omega
  | toneEnd =>
    simp only at hp hf
    obtain ⟨h1, h2, h3⟩ := hp
    have hmu : s.play.passes s.reg s.cfg.lead = 4 := by simp [Playback.passes, Playback.passesBelow, h1, h2, h3]
    rcases hf with hf | hf <;> rw [hf, hmu]
    · have := Playback.passes_startNext hne s.cfg.lead (p := s.play.enterSilent) rfl h1
      omega
    · have := Playback.passes_beginSilence s.reg s.cfg.lead (p := s.play.enterSilent) s.gap h1
      omega
  | deliverBeforeEnd =>
    simp only at hp hf
    obtain ⟨h1, h2, h3, h4⟩ := hp
    rcases hf with hf | ⟨e, hf⟩ <;> rw [hf]
    · simp [Playback.passes, Playback.passesBelow, Playback.ackBeforeEnd, h1, h2, h3, h4]
    · have he : s.play.ackBeforeEnd.engState = .timedSilence := h2
      simp only [Playback.toneRequest, he]
      simp [Playback.passes, Playback.passesBelow, Playback.ackBeforeEnd, h1, h2, h3, h4]
      split_ifs <;> omega
  | silenceEnd =>
    simp only at hp hf
    obtain ⟨h1, h2, h3, h4⟩ := hp
    have h6 : s.play.beforeEndFired = true := by
      cases hb : s.play.beforeEndFired
      · exact absurd ⟨hb, by omega⟩ h3
      · rfl
    rw [hf, Playback.leaveSilence_startNext]
    cases hq : s.play.qTone with
    | some t =>
      simp only
      rw [Playback.passes_beginTone hne _ _ (by exact h1)]
      simp [Playback.passes, Playback.passesBelow, h1, h2, h4, h6, hq]
    | none =>
      simp only
      cases hs : s.play.qSil with
      | some q =>
        have := Playback.passes_beginSilence s.reg s.cfg.lead q h1
        have hmu : s.play.passes s.reg s.cfg.lead = 4 := by
          simp [Playback.passes, Playback.passesBelow, h1, h2, h4, h6, hq, hs]
        simp only
        omega
      | none => simp [Playback.passes, Playback.passesBelow, Playback.endSilence, h1, h2, h4, h6, hq, hs]

/-- Enough passes make a state ready to emit. -/
theorem State.settleWithin_ready (fuel : Nat) (s : State) (hne : s.reg.NonEmpty)
    (h : s.play.passes s.reg s.cfg.lead ≤ fuel) :
    (s.settleWithin fuel).play.settleAction s.reg s.cfg.lead = none := by
  induction fuel generalizing s with
  | zero => exact Playback.settleAction_eq_none (show s.play.passes s.reg s.cfg.lead = 0 by omega)
  | succ fuel ih =>
    unfold State.settleWithin
    split
    · assumption
    · next a ha =>
      have hlt := s.passes_perform_lt hne ha
      have := ih (s.perform a) (by simpa using hne) (by simp only [State.perform_fields]; omega)
      simpa using this

/-- A state ready to emit is left as it is. -/
theorem State.settleWithin_of_ready (fuel : Nat) {s : State} (h : s.play.settleAction s.reg s.cfg.lead = none) :
    s.settleWithin fuel = s := by
  cases fuel with
  | zero => rfl
  | succ fuel => unfold State.settleWithin; rw [h]

theorem State.settle_of_ready {s : State} (h : s.play.settleAction s.reg s.cfg.lead = none) : s.settle = s :=
  State.settleWithin_of_ready _ h

/-- The first pass of settle, when there is one, is followed by a settle: eight passes are always enough. -/
theorem State.settle_eq_perform {s : State} (hne : s.reg.NonEmpty) {a : SettleAction}
    (h : s.play.settleAction s.reg s.cfg.lead = some a) : s.settle = (s.perform a).settle := by
  have key : ∀ fuel (u : State), u.reg.NonEmpty → u.play.passes u.reg u.cfg.lead ≤ fuel →
      u.settleWithin (fuel + 1) = u.settleWithin fuel := by
    intro fuel
    induction fuel with
    | zero =>
      intro u _ hu
      have := Playback.settleAction_eq_none (show u.play.passes u.reg u.cfg.lead = 0 by omega)
      rw [State.settleWithin_of_ready _ this, State.settleWithin_of_ready _ this]
    | succ fuel ih =>
      intro u hu hlt
      rw [State.settleWithin.eq_def (fuel + 1 + 1), State.settleWithin.eq_def (fuel + 1)]
      simp only
      split
      · rfl
      · next b hb =>
        have := u.passes_perform_lt hu hb
        exact ih _ (by simpa using hu) (by simp only [State.perform_fields]; omega)
  have h8 : s.settle = (s.perform a).settleWithin 7 := by
    unfold State.settle settlePasses
    rw [State.settleWithin.eq_def]
    simp only [h]
  have hp := (s.perform a).play.passes_le s.reg s.cfg.lead
  rw [h8, State.settle, settlePasses, key 7 _ (by simpa using hne) (by simp only [State.perform_fields]; omega)]

end Sys2Proof.Machine
end

