-- ==== Sys2Proof/Laws/Orderly.lean ====
section
/-! SUPPORT. Every operation on the playback state keeps it orderly (10_state.md R24), one lemma per operation. -/

namespace Sys2Proof.Machine

variable {lead : Nat} {p : Playback}

theorem Playback.Orderly.beginTone (r : Registers) (t : Tone) (h : p.Orderly lead)
    (hc : p.silenceLeft = 0) : (p.beginTone r t).Orderly lead := by
  obtain ⟨h1, h2, h3, h4, h5, h6, h7, h8, h9⟩ := h
  constructor <;> simp_all [Playback.beginTone, EngState.isTone]

theorem Playback.Orderly.beginSilence (q : QueuedSilence) (h : p.Orderly lead)
    (hs : p.startPending = false) (hi : p.indefinite = false) (hn : p.sustainLeft = 0) :
    (p.beginSilence q).Orderly lead := by
  obtain ⟨h1, h2, h3, h4, h5, h6, h7, h8, h9⟩ := h
  constructor <;> simp_all [Playback.beginSilence, EngState.isTone]

/-- Outside RampUp no OnToneStart is owed, and outside RampUp and Sustain nothing is left to sustain. -/
theorem Playback.Orderly.notSounding (h : p.Orderly lead) (h1 : p.engState ≠ .rampUp) (h2 : p.engState ≠ .sustain) :
    p.startPending = false ∧ p.indefinite = false ∧ p.sustainLeft = 0 := by
  obtain ⟨-, -, h3, -, -, h6, h7, -, -⟩ := h
  refine ⟨?_, ?_, ?_⟩
  · cases hs : p.startPending
    · rfl
    · exact absurd (h3 hs).1 h1
  · cases hi : p.indefinite
    · rfl
    · rcases h6 hi with h | h <;> contradiction
  · by_contra hn
    rcases h7 (by omega) with h | h <;> contradiction

theorem Playback.Orderly.silenceLeft_eq_zero (h : p.Orderly lead) (h1 : p.engState ≠ .timedSilence) :
    p.silenceLeft = 0 := by
  by_contra hn
  exact h1 (h.silenceInSilence (by omega))

theorem Playback.Orderly.queueSilence (q : QueuedSilence) (h : p.Orderly lead) : (p.queueSilence q).Orderly lead := by
  cases hs : p.engState
  case silent =>
    obtain ⟨a, b, c⟩ := h.notSounding (by simp [hs]) (by simp [hs])
    simpa [Playback.queueSilence, hs] using h.beginSilence q a b c
  all_goals
    obtain ⟨h1, h2, h3, h4, h5, h6, h7, h8, h9⟩ := h
    constructor <;> simp_all [Playback.queueSilence, EngState.isTone]

theorem Playback.Orderly.cutToRampDown (r : Registers) (h : p.Orderly lead) (hs : p.startPending = false)
    (ht : p.engState.isTone = true) : (p.cutToRampDown r).Orderly lead := by
  obtain ⟨h1, h2, h3, h4, h5, h6, h7, h8, h9⟩ := h
  have : p.engState ≠ .silent := by rintro h; simp [h, EngState.isTone] at ht
  have : p.engState ≠ .timedSilence := by rintro h; simp [h, EngState.isTone] at ht
  constructor <;> simp_all [Playback.cutToRampDown, EngState.isTone]

theorem Playback.Orderly.toneRequest (r : Registers) (t : Tone) (h : p.Orderly lead) :
    (p.toneRequest r t).Orderly lead := by
  cases hs : p.engState
  case silent =>
    have h0 := h.silenceLeft_eq_zero (by simp [hs])
    obtain ⟨h1, h2, h3, h4, h5, h6, h7, h8, h9⟩ := h
    constructor <;> simp_all [Playback.toneRequest, Playback.beginTone, EngState.isTone]
  case rampUp =>
    have h0 := h.silenceLeft_eq_zero (by simp [hs])
    cases hp : p.startPending <;>
      obtain ⟨h1, h2, h3, h4, h5, h6, h7, h8, h9⟩ := h <;>
      constructor <;> simp_all [Playback.toneRequest, Playback.beginTone, Playback.cutToRampDown, EngState.isTone]
  case sustain =>
    obtain ⟨h1, h2, h3, h4, h5, h6, h7, h8, h9⟩ := h
    constructor <;> simp_all [Playback.toneRequest, Playback.cutToRampDown, EngState.isTone]
  case rampDown =>
    obtain ⟨h1, h2, h3, h4, h5, h6, h7, h8, h9⟩ := h
    constructor <;> simp_all [Playback.toneRequest, EngState.isTone]
  case timedSilence =>
    obtain ⟨h1, h2, h3, h4, h5, h6, h7, h8, h9⟩ := h
    constructor <;> simp_all [Playback.toneRequest, EngState.isTone]

theorem Playback.Orderly.silenceThenTone (n m : Nat) (h : p.Orderly lead) : (p.silenceThenTone n m).Orderly lead := by
  cases hs : p.engState
  case silent =>
    obtain ⟨a, b, c⟩ := h.notSounding (by simp [hs]) (by simp [hs])
    simpa [Playback.silenceThenTone, hs, EngState.isTone] using h.beginSilence ⟨n, some m⟩ a b c
  case timedSilence =>
    obtain ⟨a, b, c⟩ := h.notSounding (by simp [hs]) (by simp [hs])
    simpa [Playback.silenceThenTone, hs, EngState.isTone] using h.beginSilence ⟨n, some m⟩ a b c
  all_goals
    obtain ⟨h1, h2, h3, h4, h5, h6, h7, h8, h9⟩ := h
    constructor <;> simp_all [Playback.silenceThenTone, Playback.abandonTone, Playback.beginSilence, EngState.isTone]

theorem Playback.Orderly.stop (policy : StopPolicy) (r : Registers) (h : p.Orderly lead) :
    (p.stop policy r).Orderly lead := by
  have h0 : p.engState ≠ .timedSilence → p.silenceLeft = 0 := h.silenceLeft_eq_zero
  obtain ⟨h1, h2, h3, h4, h5, h6, h7, h8, h9⟩ := h
  cases hs : p.engState
  case rampUp =>
    cases hp : p.startPending <;> cases policy <;> constructor <;>
      simp_all [Playback.stop, Playback.clearQueues, Playback.dropUnheard, Playback.policyStop, Playback.gracefulStop,
        Playback.truncateStop, Playback.cutToRampDown, Playback.abandonTone, EngState.isTone]
  all_goals
    cases policy <;> constructor <;>
      simp_all [Playback.stop, Playback.clearQueues, Playback.dropSilence, Playback.policyStop, Playback.gracefulStop,
        Playback.truncateStop, Playback.cutToRampDown, Playback.abandonTone, EngState.isTone]

theorem Playback.orderly_reset (lead : Nat) : Playback.reset.Orderly lead := by
  constructor <;> simp [Playback.reset, EngState.isTone]

/-- When the queues are those of a Silent engine that is about to go on, what follows is orderly. -/
theorem Playback.orderly_startNext (r : Registers) (hs : p.engState = .silent) (hp : p.pos = 0)
    (ha : p.startPending = false) (hi : p.indefinite = false) (hn : p.sustainLeft = 0) (hl : p.silenceLeft = 0) :
    (p.startNext r).Orderly lead := by
  unfold Playback.startNext
  rw [hs]
  simp only
  split
  · constructor <;> simp_all [Playback.beginSilence, EngState.isTone]
  · split
    · constructor <;> simp_all [Playback.beginTone, EngState.isTone]
    · constructor <;> simp_all [EngState.isTone]

theorem Playback.Orderly.advance (r : Registers) (h : p.Orderly lead)
    (hr : p.settleAction r lead = none) : p.advance.Orderly lead := by
  have hp := Playback.settleAction_none hr
  obtain ⟨h1, h2, h3, h4, h5, h6, h7, h8, h9⟩ := h
  cases hs : p.engState <;> constructor <;> simp_all [Playback.advance, EngState.isTone]
  all_goals (try intro hb; have := h9 hb; omega)

/-- One pass of settle keeps the playback state orderly (R24, R81). -/
theorem State.orderly_perform (s : State) {a : SettleAction} (h : s.play.Orderly s.cfg.lead)
    (ha : s.play.settleAction s.reg s.cfg.lead = some a) : (s.perform a).play.Orderly s.cfg.lead := by
  have hp := Playback.settleAction_some ha
  have hf := s.perform_play a
  have h0 : s.play.engState ≠ .timedSilence → s.play.silenceLeft = 0 := h.silenceLeft_eq_zero
  cases a with
  | deliverAbandoned =>
    have hk : s.play.ackComplete.Orderly s.cfg.lead := by
      obtain ⟨h1, h2, h3, h4, h5, h6, h7, h8, h9⟩ := h
      constructor <;> simp_all [Playback.ackComplete]
    rcases hf with hf | hf <;> rw [hf]
    · exact hk
    · exact hk.queueSilence _
  | deliverIdle =>
    rw [hf]
    obtain ⟨h1, h2, h3, h4, h5, h6, h7, h8, h9⟩ := h
    constructor <;> simp_all [Playback.ackIdle]
  | deliverStart =>
    rw [hf]
    obtain ⟨h1, h2, h3, h4, h5, h6, h7, h8, h9⟩ := h
    constructor <;> simp_all [Playback.ackStart]
  | rampUpDone =>
    rw [hf]
    obtain ⟨h1, h2, h3, h4, h5, h6, h7, h8, h9⟩ := h
    by_cases hs : s.play.indefinite = true ∨ 0 < s.play.sustainLeft
    · constructor <;> simp_all [Playback.afterRampUp, EngState.isTone]
    · constructor <;> simp_all [Playback.afterRampUp, EngState.isTone]
  | sustainDone =>
    rw [hf]
    obtain ⟨h1, h2, h3, h4, h5, h6, h7, h8, h9⟩ := h
    constructor <;> simp_all [Playback.endSustain, EngState.isTone]
  | cycleDone =>
    rw [hf]
    obtain ⟨h1, h2, h3, h4, h5, h6, h7, h8, h9⟩ := h
    constructor <;> simp_all [Playback.nextCycle, EngState.isTone]
  | toneEnd =>
    obtain ⟨-, hs, -⟩ := hp
    have hn := h.notSounding (by simp [hs]) (by simp [hs])
    have hz := h0 (by simp [hs])
    rcases hf with hf | hf <;> rw [hf]
    · exact Playback.orderly_startNext s.reg rfl rfl hn.1 rfl rfl hz
    · obtain ⟨h1, h2, h3, h4, h5, h6, h7, h8, h9⟩ := h
      constructor <;> simp_all [Playback.enterSilent, Playback.beginSilence, EngState.isTone, State.gap]
  | deliverBeforeEnd =>
    have hk : s.play.ackBeforeEnd.Orderly s.cfg.lead := by
      obtain ⟨h1, h2, h3, h4, h5, h6, h7, h8, h9⟩ := h
      constructor <;> simp_all [Playback.ackBeforeEnd]
    rcases hf with hf | ⟨e, hf⟩ <;> rw [hf]
    · exact hk
    · exact hk.toneRequest _ _
  | silenceEnd =>
    obtain ⟨-, hs, -, hz⟩ := hp
    have hn := h.notSounding (by simp [hs]) (by simp [hs])
    have hpos := h.posWithoutTone (by simp [hs, EngState.isTone])
    rw [hf, Playback.leaveSilence_startNext]
    split
    · obtain ⟨h1, h2, h3, h4, h5, h6, h7, h8, h9⟩ := h
      constructor <;> simp_all [Playback.beginTone, EngState.isTone]
    · split
      · exact h.beginSilence _ hn.1 hn.2.1 hn.2.2
      · obtain ⟨h1, h2, h3, h4, h5, h6, h7, h8, h9⟩ := h
        constructor <;> simp_all [Playback.endSilence, EngState.isTone]

/-- Settling keeps the playback state orderly. -/
theorem State.orderly_settleWithin (fuel : Nat) (s : State) (h : s.play.Orderly s.cfg.lead) :
    (s.settleWithin fuel).play.Orderly s.cfg.lead := by
  induction fuel generalizing s with
  | zero => exact h
  | succ fuel ih =>
    unfold State.settleWithin
    split
    · exact h
    · next a ha => simpa using ih (s.perform a) (by simpa using s.orderly_perform h ha)

theorem State.orderly_settle (s : State) (h : s.play.Orderly s.cfg.lead) : s.settle.play.Orderly s.cfg.lead :=
  State.orderly_settleWithin _ s h

end Sys2Proof.Machine
end

