-- ==== Sys2Proof/Laws/Numeric.lean ====
section
/-! SUPPORT. Bounds and exact readings of the core's arithmetic, and what is known of a patch's contents. -/

namespace Sys2Proof.Machine

/-- Rounding is off by less than one from the floor (R9). -/
theorem roundTies_bounds (t : RoundTies) (n d : Nat) : n / d ≤ roundTies t n d ∧ roundTies t n d ≤ n / d + 1 := by
  unfold roundTies
  split
  · omega
  split
  · omega
  · cases t
    · constructor <;> simp only [] <;> omega
    · constructor <;> simp only [] <;> omega

theorem rampCyclesOf_pos (t : RoundTies) (sr spc wpm : Nat) : 1 ≤ rampCyclesOf t sr spc wpm := le_max_left _ _

/-- A cycle has 4 to 1921 samples, at every admitted rate and frequency. -/
theorem samplesPerCycle_bounds (t : RoundTies) {sr hz : Nat} (h1 : 8000 ≤ sr) (h2 : sr ≤ 192000) (h3 : 100 ≤ hz)
    (h4 : hz ≤ 2000) : 4 ≤ samplesPerCycle t sr hz ∧ samplesPerCycle t sr hz ≤ 1921 := by
  obtain ⟨hl, hu⟩ := roundTies_bounds t sr hz
  have h5 : 4 ≤ sr / hz := by
    rw [Nat.le_div_iff_mul_le (by omega)]; omega
  have h6 : sr / hz ≤ 1920 := by
    have := Nat.div_le_div h2 h3 (by omega)
    omega
  unfold samplesPerCycle
  omega

/-- A ramp has at most 241 cycles, at every admitted rate, frequency and speed. -/
theorem rampCyclesOf_le (t : RoundTies) {sr spc wpm : Nat} (h1 : sr ≤ 192000) (h2 : 4 ≤ spc) :
    rampCyclesOf t sr spc wpm ≤ 241 := by
  unfold rampCyclesOf
  obtain ⟨-, hu⟩ := roundTies_bounds t ((rampMs wpm).num * sr) ((rampMs wpm).den * 1000 * spc)
  have : (rampMs wpm).num * sr / ((rampMs wpm).den * 1000 * spc) ≤ 240 := by
    unfold rampMs
    split
    · apply Nat.div_le_of_le_mul
      simp only []
      omega
    · next hw =>
      apply Nat.div_le_of_le_mul
      simp only []
      nlinarith
  omega

/-- A word's duration of `u` µs, in samples (R45, R62). -/
theorem toSamples_durationOperand (sr : Nat) (u : Operand) : toSamples sr (durationOperand u) = u.toNat * sr / 1000000 := by
  have h : (durationOperand u).den * 1000 = 1000000 := by rw [show (durationOperand u).den = 1000 from rfl]
  rw [toSamples, h, show (durationOperand u).num = u.toNat from rfl]

/-- A patch has the length R22 gives it. -/
@[simp] theorem length_patch (kind : PatchKind) (spc l : Nat) (g : Rat) :
    (patch kind spc l g).length = patchLength kind spc l := by
  simp [patch]

/-- Entry `n` of a regenerated patch is PATCH_VALUE of its arguments (R54). -/
theorem patchEntry_patch {kind : PatchKind} {spc l n : Nat} (g : Rat) (h : n < patchLength kind spc l) :
    patchEntry kind (patch kind spc l g) n = patchValue kind n spc l g := by
  simp [patchEntry, patch, h]

end Sys2Proof.Machine
end

