-- ==== Sys2Proof/Laws/Read.lean ====
section
/-! SUPPORT. READ's loop: the buffer it writes, how turns add up, that the output influences nothing, and how a phase plays. -/

namespace Sys2Proof.Machine

/-! ### The buffer -/

/-- A slot after a MemWrite (R32). -/
theorem memWrite_get (buf : List Sample) (i j : Nat) (v : Sample) :
    (memWrite buf i v)[j]? = if i = j ∧ j < buf.length then some v else buf[j]? := by
  unfold memWrite
  rw [List.getElem?_set]
  by_cases h : i = j
  · subst h
    by_cases h2 : i < buf.length <;> simp [h2]
  · simp [h]

@[simp] theorem length_memWrite (buf : List Sample) (i : Nat) (v : Sample) : (memWrite buf i v).length = buf.length := by
  simp [memWrite]

@[simp] theorem State.readSlot_buf (s : State) (i : Nat) :
    (s.readSlot i).buf = memWrite s.buf i (s.settle.play.currentSample s.reg) := by
  simp [State.readSlot]

@[simp] theorem State.readSlot_play (s : State) (i : Nat) : (s.readSlot i).play = s.settle.play.advance := by
  simp [State.readSlot]

@[simp] theorem State.readSlots_length (n i : Nat) (s : State) :
    (State.readSlots n i s).buf.length = s.buf.length := by
  induction n generalizing i s with
  | zero => rfl
  | succ n ih => simp [State.readSlots, ih]

/-- Turns from slot `i` on write the slots `i` to `i + n - 1` alone (R32). -/
theorem State.readSlots_slot_outside (n i : Nat) (s : State) {j : Nat} (h : j < i ∨ i + n ≤ j) :
    (State.readSlots n i s).slot j = s.slot j := by
  induction n generalizing i s with
  | zero => rfl
  | succ n ih =>
    rw [State.readSlots, ih _ _ (by omega)]
    simp only [State.slot, State.readSlot_buf, memWrite_get]
    rw [if_neg (by omega)]

/-- Turns add up (R92). -/
theorem State.readSlots_add (a b i : Nat) (s : State) :
    State.readSlots (a + b) i s = State.readSlots b (i + a) (State.readSlots a i s) := by
  induction a generalizing i s with
  | zero => simp [State.readSlots]
  | succ a ih =>
    rw [show a + 1 + b = (a + b) + 1 by omega, State.readSlots, ih, State.readSlots, show i + 1 + a = i + (a + 1) by omega]

theorem State.readSlots_succ (n i : Nat) (s : State) :
    State.readSlots (n + 1) i s = (State.readSlots n i s).readSlot (i + n) := by
  rw [State.readSlots_add]; rfl

/-- Slot `i + k` holds the sample of turn `k` (R79). -/
theorem State.readSlots_slot_inside (n i : Nat) (s : State) {k : Nat} (hk : k < n) (hb : i + n ≤ s.buf.length) :
    (State.readSlots n i s).slot (i + k)
      = some ((State.readSlots k i s).settle.play.currentSample s.reg) := by
  obtain ⟨m, rfl⟩ : ∃ m, n = k + (1 + m) := ⟨n - k - 1, by omega⟩
  rw [State.readSlots_add, State.readSlots_add 1 m]
  rw [State.readSlots_slot_outside _ _ _ (by omega)]
  simp only [State.readSlots, State.slot, State.readSlot_buf, memWrite_get]
  rw [if_pos (by simp; omega)]
  simp

/-! ### The output influences nothing -/

/-- The state with another buffer and another sample stream so far. -/
def State.withOutput (s : State) (b o : List Sample) : State := { s with buf := b, samples := o }

@[simp] theorem State.withOutput_fields (s : State) (b o : List Sample) :
    (s.withOutput b o).cfg = s.cfg ∧ (s.withOutput b o).reg = s.reg ∧ (s.withOutput b o).play = s.play
      ∧ (s.withOutput b o).key = s.key ∧ (s.withOutput b o).input = s.input ∧ (s.withOutput b o).time = s.time
      ∧ (s.withOutput b o).buf = b ∧ (s.withOutput b o).samples = o ∧ (s.withOutput b o).readResult = s.readResult
      ∧ (s.withOutput b o).radioKey = s.radioKey ∧ (s.withOutput b o).idle = s.idle := by
  simp [State.withOutput]

theorem State.emitKey_withOutput (s : State) (b o : List Sample) (a : Bool) :
    (s.withOutput b o).emitKey a = (s.emitKey a).withOutput b o := rfl

theorem State.fire_withOutput (s : State) (b o : List Sample) (ev : Event) :
    (s.withOutput b o).fire ev = (s.fire ev).withOutput b o := by
  cases ev with
  | toneStart =>
    simp only [State.fire, State.onToneStart, State.withOutput_fields]
    split
    · rfl
    · exact State.emitKey_withOutput (s.setKey (s.key.startTone s.time)) b o true
  | toneComplete =>
    simp only [State.fire, State.onToneComplete, State.withOutput_fields]
    split
    · rw [show ∀ k, (s.withOutput b o).setKey k = (s.setKey k).withOutput b o from fun _ => rfl, State.emitKey_withOutput]
      rfl
    · rfl
  | beforeSilenceEnd =>
    simp only [State.fire, State.onBeforeSilenceEnd, State.withOutput_fields]
    split
    · split <;> rfl
    · rfl
  | silenceComplete =>
    simp only [State.fire, State.onSilenceComplete, State.withOutput_fields]
    split <;> rfl
  | becomeIdle => rfl

theorem State.perform_withOutput (s : State) (b o : List Sample) (a : SettleAction) :
    (s.withOutput b o).perform a = (s.perform a).withOutput b o := by
  have h1 : ∀ (u : State) (e : Option Event), (u.withOutput b o).fireOption e = (u.fireOption e).withOutput b o := by
    intro u e
    cases e
    · rfl
    · exact State.fire_withOutput u b o _
  have h2 : ∀ (u : State), (u.withOutput b o).conclude a = (u.conclude a).withOutput b o := by intro u; cases a <;> rfl
  unfold State.perform
  rw [show (s.withOutput b o).setPlay ((s.withOutput b o).play.prepare (s.withOutput b o).reg a)
    = (s.setPlay (s.play.prepare s.reg a)).withOutput b o from rfl, h1, h2]
  rfl

theorem State.settle_withOutput (s : State) (b o : List Sample) :
    (s.withOutput b o).settle = s.settle.withOutput b o := by
  unfold State.settle
  generalize settlePasses = fuel
  induction fuel generalizing s with
  | zero => rfl
  | succ fuel ih =>
    rw [State.settleWithin, State.settleWithin]
    simp only [State.withOutput_fields]
    split
    · rfl
    · rw [State.perform_withOutput]; exact ih _

theorem State.emitInto_eq (s : State) (i : Nat) :
    s.emitInto i = (s.setPlay s.play.advance).withOutput (memWrite s.buf i (s.play.currentSample s.reg))
      (s.samples ++ [s.play.currentSample s.reg]) := rfl

/-- Where the turns write, into what buffer and after what stream, changes only the buffer and the stream. -/
theorem State.readSlots_withOutput (n i j : Nat) (s : State) (b o : List Sample) :
    State.readSlots n j (s.withOutput b o)
      = (State.readSlots n i s).withOutput (State.readSlots n j (s.withOutput b o)).buf
          (State.readSlots n j (s.withOutput b o)).samples := by
  induction n generalizing i j s b o with
  | zero => rfl
  | succ n ih =>
    have h : (s.withOutput b o).readSlot j
        = (s.readSlot i).withOutput ((s.withOutput b o).readSlot j).buf ((s.withOutput b o).readSlot j).samples := by
      simp only [State.readSlot, State.settle_withOutput, State.emitInto_eq, State.withOutput_fields]
      rfl
    rw [State.readSlots, State.readSlots, h, ih (i + 1) (j + 1) (s.readSlot i)]
    rfl

/-- The samples `n` turns emit, in order: what they add to the sample stream (R79, R139). -/
theorem State.readSlots_samples (n i : Nat) (s : State) :
    (State.readSlots n i s).samples
      = s.samples ++ (List.range n).map (fun k => (State.readSlots k i s).settle.play.currentSample s.reg) := by
  induction n with
  | zero => simp [State.readSlots]
  | succ n ih => simp [State.readSlots_succ, State.readSlot, ih, List.range_succ]

/-! ### Settling once is settling twice -/

theorem State.settle_ready (s : State) (h : s.reg.NonEmpty) : s.settle.play.settleAction s.reg s.cfg.lead = none :=
  State.settleWithin_ready settlePasses s h (le_trans (Playback.passes_le _ _ _) (by decide))

theorem State.settle_settle (s : State) (h : s.reg.NonEmpty) : s.settle.settle = s.settle :=
  State.settle_of_ready (by simpa only [State.settle_fields] using s.settle_ready h)

theorem State.readSlot_settle (s : State) (h : s.reg.NonEmpty) (i : Nat) : s.settle.readSlot i = s.readSlot i := by
  rw [State.readSlot, State.settle_settle s h]; rfl

/-- A loop of at least one turn may start from the settled state (R92). -/
theorem State.readSlots_settle (s : State) (h : s.reg.NonEmpty) (n i : Nat) :
    State.readSlots (n + 1) i s.settle = State.readSlots (n + 1) i s := by
  rw [State.readSlots, State.readSlots, State.readSlot_settle s h]

/-- So may a loop of any number of turns that is settled at its end. -/
theorem State.readSlots_settle_settle (s : State) (h : s.reg.NonEmpty) (n i : Nat) :
    (State.readSlots n i s.settle).settle = (State.readSlots n i s).settle := by
  cases n with
  | zero => simp only [State.readSlots, State.settle_settle s h]
  | succ n => rw [State.readSlots_settle s h]

/-! ### A phase plays -/

/-- A turn at a state ready to emit moves the playback state on by one sample, and touches neither keyer nor traces. -/
theorem State.readSlot_of_ready {s : State} (h : s.play.settleAction s.reg s.cfg.lead = none) (i : Nat) :
    s.readSlot i = s.emitInto i := by
  rw [State.readSlot, State.settle_of_ready h]

/-- Within a ramp or a cycle, `k` turns move E.POS by `k` and change nothing else but the output (R80). -/
theorem State.readSlots_phase (s : State) (k i len : Nat) (ht : s.play.engState.isTone = true)
    (hready : ∀ q, q < len → ({ s.play with pos := q } : Playback).settleAction s.reg s.cfg.lead = none)
    (hk : s.play.pos + k ≤ len) :
    State.readSlots k i s
      = (s.setPlay { s.play with pos := s.play.pos + k }).withOutput (State.readSlots k i s).buf
          (State.readSlots k i s).samples := by
  induction k with
  | zero => rfl
  | succ k ih =>
    have ih := ih (by omega)
    have hr : (State.readSlots k i s).play.settleAction (State.readSlots k i s).reg (State.readSlots k i s).cfg.lead
        = none := by
      rw [ih]
      simpa using hready (s.play.pos + k) (by omega)
    rw [State.readSlots_succ, State.readSlot_of_ready hr, State.emitInto_eq]
    have hp : (State.readSlots k i s).play.advance = { s.play with pos := s.play.pos + (k + 1) } := by
      rw [ih]
      simp only [State.withOutput_fields, State.setPlay_fields]
      unfold Playback.advance
      cases hs : s.play.engState <;> simp only [hs] at ht ⊢ <;> first | rfl | exact absurd ht (by decide)
    rw [hp]
    simp only [State.withOutput_fields]
    rw [ih]
    rfl

end Sys2Proof.Machine
end

