-- ==== Sys2Proof/Laws/Machine.lean ====
section
/-! SUPPORT. What READ and a step can do, said once: when READ completes and with what, what it keeps, the sample stream it adds to, and the three
ways a step goes. -/

namespace Sys2Proof.Machine

/-- Registers that agree with admitted parameters have no empty patch (R93). -/
theorem Registers.nonEmpty_of_configured {c : Config} {r : Registers} (hc : c.Admitted) (h : r.Configured c) : r.NonEmpty := by
  have hb := samplesPerCycle_bounds c.roundTies hc.1.1 hc.1.2 h.freqLegal.1 h.freqLegal.2
  have hp := rampCyclesOf_pos c.roundTies c.sr r.spc r.wpm
  have hs := h.spcOfFreq
  refine ⟨by omega, ?_⟩
  rw [h.lengthOfRamp, h.cyclesOfRamp]
  nlinarith

/-- READ completes where it has its slots (R79). -/
theorem exec_read {n : Operand} {s : State} (hb : n.toNat ≤ s.buf.length) :
    exec (.read n) s = .next { s.readSamples n.toNat with readResult := some n } :=
  if_neg (Nat.not_lt.mpr hb)

/-- And only there (R79). -/
theorem exec_read_cases {n : Operand} {s t : State} (h : exec (.read n) s = .next t) :
    n.toNat ≤ s.buf.length ∧ t = { s.readSamples n.toNat with readResult := some n } := by
  replace h : execRead n s = .next t := h
  unfold execRead at h
  split_ifs at h with h1
  cases h
  exact ⟨by simpa [countOperand] using h1, rfl⟩

/-- A word asks for the slots that the READ it decodes to writes (R32). -/
theorem slotsFor_read {w : CmdWord} {n : Operand} (h : decode w = .ok (.read n)) : slotsFor w = n.toNat := by
  unfold decode at h
  split at h
  · unfold decodeByOp at h
    split at h
    case h_14 => cases h
    case h_7 =>
      split at h
      · cases h
      · rw [whenUnusedZero_ok] at h
        cases h.2
    all_goals rw [whenUnusedZero_ok] at h
    case h_12 ho =>
      cases h.2
      simp [slotsFor, show opField w = 0x30#8 from BitVec.eq_of_toNat_eq ho]
    all_goals cases h.2
  · cases h

/-- And for none when it decodes to any other operation. -/
theorem slotsFor_of_ne_read {w : CmdWord} {i : Instr} (h : decode w = .ok i) (hn : ∀ n, i ≠ .read n) : slotsFor w = 0 := by
  unfold decode at h
  split at h
  · unfold decodeByOp at h
    split at h
    case h_12 =>
      rw [whenUnusedZero_ok] at h
      exact absurd h.2.symm (hn _)
    case h_14 => cases h
    all_goals
      rename_i ho
      refine if_neg fun hx => ?_
      rw [hx] at ho
      simp at ho
  · cases h

/-- What READ adds to the sample stream (R79, R139). -/
theorem State.readSamples_samples (s : State) (n : Nat) :
    (s.readSamples n).samples
      = s.samples ++ (List.range n).map (fun k => (State.readSlots k 0 s).settle.play.currentSample s.reg) := by
  simp only [State.readSamples, State.settle_fields, State.readSlots_samples]

/-- The live paddles and the mode are the host's alone: no event changes them (R102, R104). -/
theorem State.fire_paddles (s : State) (ev : Event) :
    (s.fire ev).key.dit = s.key.dit ∧ (s.fire ev).key.dah = s.key.dah ∧ (s.fire ev).key.modeB = s.key.modeB := by
  cases ev <;> simp only [State.fire]
  · unfold State.onToneStart; split <;> simp [Keyer.startTone]
  · unfold State.onToneComplete; split
    · simp only [Keyer.completeTone]; split <;> simp
    · simp
  · unfold State.onBeforeSilenceEnd; split
    · split <;> simp
    · simp
  · unfold State.onSilenceComplete; split <;> simp
  · simp

theorem State.perform_paddles (s : State) (a : SettleAction) :
    (s.perform a).key.dit = s.key.dit ∧ (s.perform a).key.dah = s.key.dah ∧ (s.perform a).key.modeB = s.key.modeB := by
  simp only [State.perform, State.conclude_fields]
  cases s.play.delivers a with
  | none => simp [State.fireOption]
  | some ev => simpa [State.fireOption] using State.fire_paddles (s.setPlay (s.play.prepare s.reg a)) ev

theorem State.settle_paddles (s : State) :
    s.settle.key.dit = s.key.dit ∧ s.settle.key.dah = s.key.dah ∧ s.settle.key.modeB = s.key.modeB := by
  unfold State.settle
  generalize settlePasses = fuel
  induction fuel generalizing s with
  | zero => simp [State.settleWithin]
  | succ fuel ih =>
    unfold State.settleWithin
    split
    · simp
    · next a _ =>
      have h1 := ih (s.perform a)
      have h2 := s.perform_paddles a
      simp_all

theorem State.readSlots_paddles (n i : Nat) (s : State) :
    (State.readSlots n i s).key.dit = s.key.dit ∧ (State.readSlots n i s).key.dah = s.key.dah
      ∧ (State.readSlots n i s).key.modeB = s.key.modeB := by
  induction n generalizing i s with
  | zero => simp [State.readSlots]
  | succ n ih =>
    have h1 := ih (i + 1) (s.readSlot i)
    have h2 := s.settle_paddles
    simp_all [State.readSlots, State.readSlot]

/-- READ's loop keeps the playback state orderly (R24). -/
theorem State.orderly_readSlots (n i : Nat) (s : State) (hne : s.reg.NonEmpty) (h : s.play.Orderly s.cfg.lead) :
    (State.readSlots n i s).play.Orderly s.cfg.lead := by
  induction n generalizing i s with
  | zero => exact h
  | succ n ih =>
    have h1 : (s.readSlot i).play.Orderly (s.readSlot i).cfg.lead := by
      simp only [State.readSlot_play, State.readSlot_fields]
      exact (s.orderly_settle h).advance s.reg (s.settle_ready hne)
    simpa [State.readSlots] using ih (i + 1) (s.readSlot i) (by simpa using hne) h1

/-- A step that gives a next state waited, or ran the operation at the head of the input at the state that has taken it (R37). -/
theorem step_cases {s t : State} (h : step s = .next t) :
    (t = s ∧ s.input = []) ∨ ∃ c rest i, s.input = c :: rest ∧ s.time.toNat ≤ c.time.toNat ∧ decode c.word = .ok i
      ∧ exec i (s.accept i c rest) = .next t := by
  unfold step fetch at h
  cases hi : s.input with
  | nil =>
    simp only [hi] at h
    cases h
    exact .inl ⟨rfl, rfl⟩
  | cons c rest =>
    right
    simp only [hi] at h
    by_cases ht : c.time.toNat < s.time.toNat
    · simp only [ht, if_true] at h
      cases h
    · simp only [ht, if_false] at h
      cases hd : decode c.word with
      | error why => rw [hd] at h; cases h
      | ok i =>
        rw [hd] at h
        exact ⟨c, rest, i, rfl, by omega, hd, h⟩

end Sys2Proof.Machine
end

