-- ==== Sys2Proof/Laws/PerInstr.lean ====
section
/-! SUPPORT. Statements about every instruction as syntax, one lemma per constructor: the round trip through the command word, and the row
of spec/opcode_table.json the word is of. -/

namespace Sys2Proof.Laws.RoundTrip

/-- Decoding the word of a well-formed instruction gives it back (R44, R46, R47). -/
def Statement (i : Instr) : Prop := i.WellFormed → decode (encode i) = .ok i

theorem setFrequency (hz : Operand) : Statement (.setFrequency hz) := by
  intro _; simp [decode, encode, decodeByOp, whenUnusedZero]

theorem setVolume (pct : Operand) : Statement (.setVolume pct) := by
  intro _; simp [decode, encode, decodeByOp, whenUnusedZero]

theorem setWpm (wpm : Operand) : Statement (.setWpm wpm) := by
  intro _; simp [decode, encode, decodeByOp, whenUnusedZero]

theorem setModeB (b : Bool) : Statement (.setModeB b) := by
  intro _; simp [decode, encode, decodeByOp, whenUnusedZero]

theorem startTone (us : Operand) : Statement (.startTone us) := by
  intro _; simp [decode, encode, decodeByOp, whenUnusedZero]

theorem startSilenceThenTone (us ut : Operand) : Statement (.startSilenceThenTone us ut) := by
  intro _; simp [decode, encode, decodeByOp, whenUnusedZero]

theorem queueSilence (us : Operand) (follow : Bool) (ut : Operand) : Statement (.queueSilence us follow ut) := by
  intro h
  cases follow <;> simp_all [decode, encode, decodeByOp, whenUnusedZero, Instr.WellFormed, Instr.wellFormed]

theorem startIndefiniteTone : Statement .startIndefiniteTone := by
  intro _; simp [decode, encode, decodeByOp, whenUnusedZero]

theorem engineStop : Statement .engineStop := by
  intro _; simp [decode, encode, decodeByOp, whenUnusedZero]

theorem updatePaddle (dit dah : Bool) : Statement (.updatePaddle dit dah) := by
  intro _; simp [decode, encode, decodeByOp, whenUnusedZero]

theorem stop : Statement .stop := by
  intro _; simp [decode, encode, decodeByOp, whenUnusedZero]

theorem read (count : Operand) : Statement (.read count) := by
  intro _; simp [decode, encode, decodeByOp, whenUnusedZero]

theorem swapEngine : Statement .swapEngine := by
  intro _; simp [decode, encode, decodeByOp, whenUnusedZero]

end Sys2Proof.Laws.RoundTrip
end

