-- ==== Sys2Proof/Tests/Slice0.lean ====
section
/-! SUPPORT. Small tests with results from 95_test_vectors.md or computed by hand from the rules: well-formedness, words written out from
30_encoding.md, one step of each operation, and for each statement with hypotheses a witness that meets them. -/

namespace Sys2Proof.Tests
open Sys2Proof.Machine

/-! ### Helpers -/

/-- Whether an operation completes in a state that passes `f`. -/
def completes (o : Host.Outcome State Fault Refusal) (f : State → Bool) : Bool :=
  match o with
  | .next t => f t
  | _ => false

/-- Whether an operation or a step is refused, for the reason given. -/
def refusedWith (o : Host.Outcome State Fault Refusal) (why : Refusal) : Bool :=
  match o with
  | .refused r => r == why
  | _ => false

/-- The reset state of 70_reset_and_hazards.md with another playback state: SPC 80, L 240, 20 WPM. -/
def playing (p : Playback) : State := { State.reset with play := p }

/-- A tone phase at index `pos` with `cycles` left to sustain. -/
def tone (e : EngState) (pos cycles : Nat) : Playback :=
  { Playback.reset with engState := e, pos := pos, sustainLeft := cycles }

/-- A silence with `left` samples to go. -/
def silence (left : Nat) (fired : Bool) : Playback :=
  { Playback.reset with engState := .timedSilence, silenceLeft := left, beforeEndFired := fired }

/-- A keyer in state `st` that sends or has sent a dit. -/
def keying (st : KeyState) : Keyer := { State.reset.key with keyState := st, toneActive := true, keyAsserted := true }

/-- One command at TIME `t`. -/
def command (w : CmdWord) (t : Time) (slots : Nat) : Command := ⟨w, t, List.replicate slots 7#32⟩

/-! ### Well-formedness -/

theorem test_wellFormed_queueSilence_without_tone : ¬ (Instr.queueSilence 10000#24 false 1#24).WellFormed := by decide
theorem test_wellFormed_queueSilence_with_tone : (Instr.queueSilence 10000#24 true 1#24).WellFormed := by decide
theorem test_wellFormed_out_of_range_frequency : (Instr.setFrequency 2001#24).WellFormed := by decide

/-! ### Words written out from the field table of R44: OP, RES P1 P0, A, B -/

theorem test_decode_setFrequency : decode 0x01000007D0000000#64 = .ok (.setFrequency 2000#24) := by decide
theorem test_decode_setVolume : decode 0x020000004B000000#64 = .ok (.setVolume 75#24) := by decide
theorem test_decode_setWpm : decode 0x0300000019000000#64 = .ok (.setWpm 25#24) := by decide
theorem test_decode_setModeB : decode 0x0401000000000000#64 = .ok (.setModeB true) := by decide
theorem test_decode_startTone : decode 0x100002BF20000000#64 = .ok (.startTone 180000#24) := by decide
theorem test_decode_startSilenceThenTone :
    decode 0x110000EA60002710#64 = .ok (.startSilenceThenTone 60000#24 10000#24) := by decide
theorem test_decode_queueSilence : decode 0x1200002710000000#64 = .ok (.queueSilence 10000#24 false 0#24) := by decide
theorem test_decode_queueSilence_tone :
    decode 0x120100271000EA60#64 = .ok (.queueSilence 10000#24 true 60000#24) := by decide
theorem test_decode_startIndefiniteTone : decode 0x1300000000000000#64 = .ok .startIndefiniteTone := by decide
theorem test_decode_engineStop : decode 0x1400000000000000#64 = .ok .engineStop := by decide
theorem test_decode_updatePaddle_dit : decode 0x2001000000000000#64 = .ok (.updatePaddle true false) := by decide
theorem test_decode_updatePaddle_dah : decode 0x2002000000000000#64 = .ok (.updatePaddle false true) := by decide
theorem test_decode_stop : decode 0x2100000000000000#64 = .ok .stop := by decide
theorem test_decode_read : decode 0x30000003E8000000#64 = .ok (.read 1000#24) := by decide
theorem test_decode_swapEngine : decode 0x3100000000000000#64 = .ok .swapEngine := by decide
theorem test_decode_reserved_opcode : decode 0x3200000000000000#64 = .error (.unknownOpcode 0x32#8) := by decide
theorem test_decode_res_high_bit : decode 0x2180000000000000#64 = .error .reservedBits := by decide
theorem test_decode_engineStop_operand : decode 0x1400000001000000#64 = .error .unusedField := by decide
theorem test_decode_queueSilence_p1 : decode 0x1202002710000000#64 = .error .unusedField := by decide
theorem test_encode_startTone : encode (.startTone 60000#24) = 0x100000EA60000000#64 := by decide
theorem test_bytes_little_endian :
    decodeBytes [0x00#8, 0x00#8, 0x00#8, 0x60#8, 0xEA#8, 0x00#8, 0x00#8, 0x10#8]
      = .ok (.startTone 60000#24, []) := by decide

/-! ### One step of each operation -/

/-- C1: 650 Hz gives SPC 74, RAMP_CYCLES 3, L 222. -/
theorem test_setFrequency_snaps : completes (exec (.setFrequency 650#24) State.reset)
    (fun t => t.reg.spc == 74 && t.reg.rampCycles == 3 && t.reg.l == 222) = true := by decide

/-- C1: 2001 Hz is ignored. -/
theorem test_setFrequency_ignores : exec (.setFrequency 2001#24) State.reset = .next State.reset := rfl

/-- C4: 150 is clamped to 100. -/
theorem test_setVolume_clamps : completes (exec (.setVolume 150#24) State.reset)
    (fun t => t.reg.vol == 100 && t.reg.l == 240) = true := by decide

/-- C4: 75 gives GAIN 3/4. -/
theorem test_setVolume_gain : gainOf 75 = 3 / 4 := by norm_num [gainOf]

/-- C2: 30 WPM gives RAMP_CYCLES 2 and L 160. -/
theorem test_setWpm_ramp : completes (exec (.setWpm 30#24) State.reset)
    (fun t => t.reg.wpm == 30 && t.reg.rampCycles == 2 && t.reg.l == 160) = true := by decide

/-- C2: −3 is clamped to 5. -/
theorem test_setWpm_clamps : completes (exec (.setWpm (BitVec.ofInt 24 (-3))) State.reset)
    (fun t => t.reg.wpm == 5 && t.reg.l == 240) = true := by decide

/-- K13. -/
theorem test_setModeB : completes (exec (.setModeB true) State.reset) (fun t => t.key.modeB) = true := by decide

/-- T1: 12000 µs are 576 samples, and one cycle to sustain. -/
theorem test_startTone_silent : completes (exec (.startTone 12000#24) State.reset)
    (fun t => t.play.engState == .rampUp && t.play.sustainLeft == 1 && t.play.startPending) = true := by decide

/-- T2: a cut at Sustain index 40 enters RampDown at 40. -/
theorem test_startTone_sustain : completes (exec (.startTone 60000#24) (playing (tone .sustain 40 5)))
    (fun t => t.play.engState == .rampDown && t.play.pos == 40 && t.play.sustainLeft == 0
      && t.play.qTone == some (.timed 2880)) = true := by decide

/-- E8: a tone in progress is abandoned, and owes its OnToneComplete. -/
theorem test_startSilenceThenTone : completes (exec (.startSilenceThenTone 10000#24 10000#24) (playing (tone .sustain 40 5)))
    (fun t => t.play == { silence 480 false with completePending := true, qTone := some (.timed 480) }) = true := by decide

/-- E11: in a tone the silence is queued, with its following tone. -/
theorem test_queueSilence_queues : completes (exec (.queueSilence 10000#24 true 10000#24) (playing (tone .sustain 40 5)))
    (fun t => t.play.qSil == some ⟨480, some 480⟩ && t.play.engState == .sustain) = true := by decide

/-- E9: in Silent the silence begins. -/
theorem test_queueSilence_begins : completes (exec (.queueSilence 10000#24 false 0#24) State.reset)
    (fun t => t.play == silence 480 false) = true := by decide

/-- E1. -/
theorem test_startIndefiniteTone : completes (exec .startIndefiniteTone State.reset)
    (fun t => t.play.engState == .rampUp && t.play.indefinite && t.play.startPending && t.play.sustainLeft == 0)
      = true := by decide

/-- T2: a cut at RampUp index 239 enters RampDown at 79. -/
theorem test_engineStop_graceful : completes (exec .engineStop (playing (tone .rampUp 239 5)))
    (fun t => t.play.engState == .rampDown && t.play.pos == 79) = true := by decide

/-- E2: under Truncate the tone is abandoned. -/
theorem test_engineStop_truncate :
    completes (exec .engineStop { playing (tone .sustain 40 5) with cfg := { Config.default with stopPolicy := .truncate } })
      (fun t => t.play == { Playback.reset with completePending := true, idlePending := true }) = true := by decide

/-- K3: both paddles in Idle start a dit, of 2880 samples. -/
theorem test_updatePaddle_idle : completes (exec (.updatePaddle true true) State.reset)
    (fun t => t.key.element == .dit && t.key.keyState == .tonePlaying && t.key.toneSnapDah
      && t.play.sustainLeft == 30) = true := by decide

/-- K9: at 1 000 001 µs the watchdog trips. -/
theorem test_updatePaddle_watchdog :
    completes (exec (.updatePaddle false false) { State.reset with key := keying .tonePlaying, time := 1000001#64 })
      (fun t => t.key.keyState == .idle && t.radioKey == [⟨false, 1000001#64⟩]) = true := by decide

/-- K12. -/
theorem test_stop_idle : completes (exec .stop { State.reset with time := 5000#64 })
    (fun t => t.radioKey == [⟨false, 5000#64⟩] && t.key.lastT == 5000#64 && t.play == Playback.reset) = true := by decide

/-- R1: READ 4 after reset writes four zeros. -/
theorem test_read_silent : completes (exec (.read 4#24) { State.reset with buf := List.replicate 5 7#32 })
    (fun t => t.buf == [0#32, 0#32, 0#32, 0#32, 7#32] && t.samples == List.replicate 4 0#32 && t.readResult == some 4#24
      && t.idle == []) = true := by decide

/-- At the end of a ramp-down the keyer releases the key and its gap of 2880 samples begins. -/
theorem test_read_tone_end :
    completes (exec (.read 0#24) { playing (tone .rampDown 240 0) with key := keying .tonePlaying })
      (fun t => t.play == silence 2880 false && t.radioKey == [⟨false, 0#64⟩] && t.key.keyState == .interElementSpace)
      = true := by decide

/-- K14. -/
theorem test_swapEngine : completes (exec .swapEngine { playing (tone .sustain 40 5) with key := keying .tonePlaying })
    (fun t => t.play == Playback.reset && t.key == keying .tonePlaying) = true := by decide

/-- K6: the latched opposite paddle decides at the last sample of the gap (LEAD 1). -/
theorem test_decision_alternates :
    completes (exec (.read 0#24)
        { playing (silence 1 false) with key := { keying .interElementSpace with element := .dah, latchDit := true } })
      (fun t => t.play.qTone == some (.timed 2880) && t.key.element == .dit && !t.key.latchDit) = true := by decide

/-- E10: an empty silence ends in the same READ: OnSilenceComplete makes the keyer Idle, OnBecomeIdle follows. -/
theorem test_silence_end :
    completes (exec (.read 0#24) { playing (silence 0 false) with key := keying .interElementSpace })
      (fun t => t.play == Playback.reset && t.key.keyState == .idle && t.idle == [0#64]) = true := by decide

/-- Z3: a TIME that decreases is refused. -/
theorem test_time_decreased :
    refusedWith (step { State.reset with time := 100#64, input := [command 0x3000000001000000#64 50#64 1] }) .timeDecreased
      = true := by decide

/-- N6: an ill-formed word is refused. -/
theorem test_illFormed_refused :
    refusedWith (step { State.reset with input := [command 0x1200002710000001#64 0#64 0] }) (.illFormed .toneWithoutFlag)
      = true := by decide

/-! ### Witnesses: for each statement with hypotheses, operands and a state that meet them -/

/-- A state that is not the reset state: a tone in Sustain under the keyer, at a later TIME. -/
def sounding : State := { playing (tone .sustain 40 5) with key := keying .tonePlaying, time := 9#64 }

/-- The registers at 600 Hz, volume 50 and 20 WPM, at SR 48000. -/
theorem configured_default : (Registers.reset Config.default).Configured Config.default := by
  constructor <;> first | decide | rfl

/-- Consistency of a state over the default registers, from its playback state and its times. -/
theorem consistent_of {s : State} (hc : s.cfg = Config.default) (hr : s.reg = Registers.reset Config.default)
    (ho : s.play.Orderly 1) (ht : s.key.lastT.toNat ≤ s.time.toNat) : s.Consistent := by
  refine ⟨?_, ?_, ?_, ht⟩
  · rw [hc]; decide
  · rw [hc, hr]; exact configured_default
  · rw [hc]; exact ho

theorem orderly_tone (e : EngState) (pos cycles : Nat) (he : e = .rampUp ∨ e = .sustain) : (tone e pos cycles).Orderly 1 := by
  rcases he with rfl | rfl <;> constructor <;> simp [tone, Playback.reset, EngState.isTone]

theorem test_witness_Consistent : sounding.Consistent :=
  consistent_of rfl rfl (orderly_tone _ _ _ (Or.inr rfl)) (by decide)

theorem test_witness_DecodeOfEncodeIsIdentity :
    (Instr.queueSilence 1#24 true 16777215#24).WellFormed ∧ (Instr.queueSilence 16777215#24 false 0#24).WellFormed := by decide

theorem test_witness_decode : decode 0x2003000000000000#64 = .ok (.updatePaddle true true) := by decide

/-- Each way of R49 for a word to be ill-formed has a word. -/
theorem test_witness_WordIsRefusedExactlyWhenIllFormed :
    decode 0xFF00000000000000#64 = .error (.unknownOpcode 0xFF#8) ∧ decode 0x0480000000000000#64 = .error .reservedBits
    ∧ decode 0x3001000000000000#64 = .error .unusedField ∧ decode 0x0402000000000000#64 = .error .unusedField
    ∧ decode 0x1101000000000000#64 = .error .unusedField ∧ decode 0x1202000000000000#64 = .error .unusedField
    ∧ decode 0x3100000000000001#64 = .error .unusedField ∧ decode 0x2000000000000001#64 = .error .unusedField
    ∧ decode 0x12000000000000FF#64 = .error .toneWithoutFlag
    ∧ ∃ s : State, ∃ c rest, s.input = c :: rest ∧ s.time.toNat ≤ c.time.toNat
        ∧ decode c.word = .error (.unknownOpcode 0x05#8) :=
  ⟨by decide, by decide, by decide, by decide, by decide, by decide, by decide, by decide, by decide,
    { State.reset with input := [command 0x0500000000000000#64 0#64 0] }, _, _, rfl, by decide, by decide⟩

theorem test_witness_DurationsConvertByFloor :
    0 < (ditMs 20).den ∧ ∃ t, (playing (silence 5 false)).play.engState = .timedSilence
      ∧ exec (.startTone 16777215#24) (playing (silence 5 false)) = .next t := ⟨by decide, _, rfl, rfl⟩

/-- 187.5 and 62.5 are ties: 188 to even, 63 away from zero. -/
theorem test_witness_RoundingIsToNearestWithTies :
    2 * (48000 % 256) = 256 ∧ roundTies .toEven 48000 256 = 188 ∧ 2 * (48000 % 768) = 768
    ∧ roundTies .toEven 48000 768 = 62 ∧ roundTies .awayFromZero 48000 768 = 63 := by decide

theorem test_witness_ramp_both_sides_of_24 :
    rampMs 24 = ⟨5, 1⟩ ∧ rampMs 25 = ⟨1200, 250⟩ ∧ rampCyclesOf .toEven 48000 80 25 = 3
      ∧ rampCyclesOf .toEven 48000 480 60 = 1 := by decide

theorem test_witness_ElementLengthsAtFortyEightKilohertz :
    toSamples 48000 (elementMs 5 .dah) = 34560 ∧ toSamples 48000 (gapMs 60) = 960 := by decide

theorem test_witness_SetFrequencySnapsOrIgnores :
    (100 ≤ (100#24 : Operand).toInt ∧ (100#24 : Operand).toInt ≤ 2000)
    ∧ (100 ≤ (2000#24 : Operand).toInt ∧ (2000#24 : Operand).toInt ≤ 2000)
    ∧ ¬ (100 ≤ (99#24 : Operand).toInt ∧ (99#24 : Operand).toInt ≤ 2000)
    ∧ ¬ (100 ≤ (2001#24 : Operand).toInt ∧ (2001#24 : Operand).toInt ≤ 2000) := by decide

theorem test_witness_ConfigurationCommandsCommute :
    configures (.setFrequency 650#24) = true ∧ configures (.setModeB true) = true
    ∧ ∀ a b, Instr.setFrequency 650#24 = .setFrequency a → Instr.setModeB true ≠ .setFrequency b :=
  ⟨rfl, rfl, fun _ _ _ h => by cases h⟩

/-- E14 at the boundary: 1000 Hz makes the cycle 48 samples, and 60 WPM the ramp 80 (C2); an index below and one at the length. -/
theorem test_witness_ConfigurationActsOnTheToneInProgress :
    (∃ t, exec (.setFrequency 1000#24) (playing (tone .sustain 47 5)) = .next t ∧ t.reg.NonEmpty ∧ 47 < t.reg.spc
      ∧ t.reg.spc ≤ 48 ∧ t.play.sustainLeft = 5)
    ∧ (∃ t, exec (.setWpm 60#24) (playing (tone .rampUp 79 5)) = .next t ∧ t.reg.NonEmpty ∧ 79 < t.reg.l ∧ t.reg.l ≤ 80)
    ∧ ∃ t, exec (.setVolume 0#24) (playing (tone .rampDown 240 0)) = .next t ∧ t.reg.l ≤ t.play.pos :=
  ⟨⟨_, rfl, by decide, by decide, by decide, rfl⟩, ⟨_, rfl, by decide, by decide, by decide⟩, _, rfl, by decide⟩

/-- Each of the engine's states, and the request that each meets. -/
theorem test_witness_ToneRequestActsByEngineState :
    (playing (silence 5 false)).play.engState = .timedSilence ∧ State.reset.play.engState = .silent
    ∧ ({ tone .rampUp 0 5 with startPending := true } : Playback).startPending = true
    ∧ (tone .rampUp 0 5).startPending = false ∧ (tone .sustain 0 5).engState = .sustain
    ∧ (tone .rampDown 0 0).engState = .rampDown := by decide

/-- T2: the cut indices at the ends of a ramp and inside it. -/
theorem test_witness_CutKeepsTheCarrierPhase :
    (playing (tone .rampUp 0 5)).Consistent ∧ (playing (tone .rampUp 239 5)).Consistent ∧ (playing (tone .sustain 0 5)).Consistent
    ∧ ((tone .rampUp 0 5).cutToRampDown (Registers.reset Config.default)).pos = 160
    ∧ ((tone .rampUp 100 5).cutToRampDown (Registers.reset Config.default)).pos = 100 :=
  ⟨consistent_of rfl rfl (orderly_tone _ _ _ (Or.inl rfl)) (by decide),
    consistent_of rfl rfl (orderly_tone _ _ _ (Or.inl rfl)) (by decide),
    consistent_of rfl rfl (orderly_tone _ _ _ (Or.inr rfl)) (by decide), by decide, by decide⟩

theorem test_witness_SilenceThenToneBeginsAtOnce :
    State.reset.play.engState.isTone = false ∧ (playing (tone .rampDown 3 0)).play.engState.isTone = true := by decide

theorem test_witness_EngineStopActsByStateAndPolicy :
    State.reset.cfg.stopPolicy = .graceful ∧ ({ Config.default with stopPolicy := .truncate } : Config).stopPolicy = .truncate
    ∧ (tone .rampUp 7 1).startPending = false ∧ (tone .rampDown 7 0).engState = .rampDown := by decide

theorem test_witness_ReadWritesExactlyItsSlots :
    (3#24 : Operand).toNat ≤ ({ State.reset with buf := List.replicate 3 7#32 } : State).buf.length
    ∧ (0#24 : Operand).toNat ≤ State.reset.buf.length := ⟨by decide, by decide⟩

theorem test_witness_ReadStopsOnlyWithoutSlots :
    refusedWith (exec (.read 1#24) State.reset) .bufferTooShort = true ∧ completes (exec (.read 0#24) State.reset) (fun _ => true)
      = true := ⟨by decide, by decide⟩

/-- A state of each phase that no check of R81 holds of. -/
theorem test_witness_EmitAdvancesThePhase :
    Playback.reset.settleAction State.reset.reg 1 = none ∧ (silence 2 false).settleAction State.reset.reg 1 = none
    ∧ (tone .rampUp 239 0).settleAction State.reset.reg 1 = none ∧ (tone .sustain 79 1).settleAction State.reset.reg 1 = none
    ∧ (tone .rampDown 239 0).settleAction State.reset.reg 1 = none
    ∧ State.reset.reg.rampUp[239]?.isSome = true ∧ State.reset.reg.cycle[79]?.isSome = true :=
  ⟨by decide, by decide, by decide, by decide, by decide, by decide, by decide⟩

theorem test_witness_ReadsSplitAnywhere :
    (5#24 : Operand).toNat = (2#24 : Operand).toNat + (3#24 : Operand).toNat ∧ State.reset.reg.NonEmpty
    ∧ (5#24 : Operand).toNat ≤ ({ State.reset with buf := List.replicate 5 7#32 } : State).buf.length
    ∧ (0#24 : Operand).toNat = (0#24 : Operand).toNat + (0#24 : Operand).toNat := ⟨by decide, by decide, by decide, by decide⟩

theorem test_witness_QuiescentReadIsSilent : State.reset.Quiescent := ⟨rfl, rfl, rfl, by decide, rfl, rfl⟩

/-- A tone of 560 requested samples: two ramps of 240 and one cycle of 80. -/
def begun : State := playing { tone .rampUp 0 1 with startPending := true }

theorem test_witness_TimedToneHasItsExactLength :
    begun.Consistent ∧ begun.play.BegunTone begun.reg 560 ∧ begun.play.startPending = true ∧ State.reset.play.engState = .silent
    ∧ State.reset.key.keyState = .idle ∧ ({ silence 0 true with qTone := some (.timed 480) } : Playback).qTone = some (.timed 480) :=
  ⟨consistent_of rfl rfl (by constructor <;> simp [begun, playing, tone, Playback.reset, EngState.isTone]) (by decide),
    ⟨rfl, rfl, rfl, by decide⟩, rfl, rfl, rfl, rfl⟩

theorem test_witness_InterElementGapIsExact :
    let s : State := { playing (tone .rampDown 240 0) with key := keying .tonePlaying }
    s.Consistent ∧ s.play.engState = .rampDown ∧ s.reg.l ≤ s.play.pos ∧ s.play.completePending = false
      ∧ s.key.keyState = .tonePlaying ∧ s.key.toneActive = true := by
  intro s
  exact ⟨consistent_of rfl rfl (by constructor <;> simp [s, playing, tone, Playback.reset, EngState.isTone]) (by decide), rfl,
    by decide, rfl, rfl, rfl⟩

theorem test_witness_ToneEventsPair : (∃ t, sounding.Consistent ∧ exec (.read 0#24) sounding = .next t)
    ∧ ∃ t, exec .stop sounding = .next t := ⟨⟨_, test_witness_Consistent, rfl⟩, _, rfl⟩

/-- An action of each kind that fires an event, at an orderly state. -/
theorem test_witness_EventsAreDeliveredWhenOwed :
    ({ silence 5 false with completePending := true } : Playback).settleAction State.reset.reg 1 = some .deliverAbandoned
    ∧ ({ tone .rampUp 0 5 with startPending := true } : Playback).settleAction State.reset.reg 1 = some .deliverStart
    ∧ (tone .rampDown 240 0).settleAction State.reset.reg 1 = some .toneEnd
    ∧ (silence 1 false).settleAction State.reset.reg 1 = some .deliverBeforeEnd
    ∧ (silence 0 true).settleAction State.reset.reg 1 = some .silenceEnd
    ∧ ({ Playback.reset with idlePending := true } : Playback).settleAction State.reset.reg 1 = some .deliverIdle := by decide

theorem test_witness_paddles_and_watchdog :
    sounding.key.keyState = .tonePlaying ∧ sounding.time.toNat - sounding.key.lastT.toNat ≤ 1000000
    ∧ (1000001#64 : Time).toNat - sounding.key.lastT.toNat > 1000000 ∧ State.reset.key.keyState = .idle := by decide

/-- K1: a row that only Mode B decides. -/
theorem test_witness_ModeBSelectsTheTrailingElement :
    ({ keying .interElementSpace with modeB := true, toneSnapDit := true, toneSnapDah := true } : Keyer).decideNext = some .dah
    ∧ ({ keying .interElementSpace with modeB := false, toneSnapDit := true, toneSnapDah := true } : Keyer).decideNext = none := by
  decide

theorem test_witness_DecisionHandlerRequestsTheNextElement :
    ({ keying .interElementSpace with dit := true } : Keyer).decideNext = some .dit
    ∧ (keying .interElementSpace).decideNext = none := by decide

theorem test_witness_DitPaddleAloneNeverSendsADah :
    ({ keying .interElementSpace with dit := true } : Keyer).DitOnly ∧ (keying .tonePlaying).DitOnly :=
  ⟨⟨rfl, rfl, rfl, rfl, fun _ => rfl⟩, ⟨rfl, rfl, rfl, rfl, fun _ => rfl⟩⟩

theorem test_witness_DahPaddleAloneNeverSendsADit :
    ({ keying .interElementSpace with dah := true, element := .dah } : Keyer).DahOnly ∧ State.reset.key.DahOnly :=
  ⟨⟨rfl, rfl, rfl, rfl, fun _ => rfl⟩, ⟨rfl, rfl, rfl, rfl, fun h => absurd rfl h⟩⟩

theorem test_witness_QueueSilenceStartsOrSupersedes :
    State.reset.play.engState = .silent ∧ (playing (silence 5 false)).play.engState ≠ .silent := by decide

/-- A gain of 0, at volume 0. -/
theorem test_witness_PatchesHoldLegalPatchValues : gainOf 0 = 0 ∧ 0 < (Registers.reset Config.default).spc := by
  constructor
  · norm_num [gainOf]
  · decide

/-- A state before each check of R81, and at each boundary between them. -/
theorem test_witness_SettleFollowsItsChecksInOrder :
    State.reset.reg.NonEmpty ∧ 8 ≤ 8
    ∧ ({ tone .rampUp 0 5 with startPending := true } : Playback).completePending = false
    ∧ State.reset.reg.l ≤ (tone .rampUp 240 5).pos ∧ (tone .rampUp 239 5).pos < State.reset.reg.l
    ∧ State.reset.reg.spc ≤ (tone .sustain 80 1).pos ∧ (tone .sustain 79 1).pos < State.reset.reg.spc
    ∧ (tone .sustain 80 1).sustainLeft = 1 ∧ (tone .sustain 0 0).sustainLeft = 0
    ∧ State.reset.reg.l ≤ (tone .rampDown 240 0).pos ∧ (tone .rampDown 239 0).pos < State.reset.reg.l
    ∧ (silence 1 false).silenceLeft ≤ State.reset.cfg.lead ∧ State.reset.cfg.lead < (silence 2 false).silenceLeft
    ∧ (silence 0 true).silenceLeft = 0 ∧ ({ Playback.reset with idlePending := true } : Playback).idlePending = true := by
  decide

/-- What may be queued at the end of a silence or of a ramp-down. -/
theorem test_witness_ends_with_each_queue :
    ({ silence 0 true with qTone := some (.timed 480) } : Playback).qTone = some (.timed 480)
    ∧ ({ silence 0 true with qSil := some ⟨480, none⟩ } : Playback).qTone = none
    ∧ (silence 0 true).qSil = none ∧ (keying .tonePlaying).toneActive = true ∧ State.reset.key.keyState ≠ .tonePlaying := by decide

/-- Each handler of the keyer, in a keyer state that acts and in one that does not. -/
theorem test_witness_handlers :
    (keying .interElementSpace).keyState = .interElementSpace ∧ State.reset.key.keyState = .idle
    ∧ (keying .tonePlaying).keyState = .tonePlaying ∧ (keying .tonePlaying).toneActive = true := by decide

theorem test_witness_DecisionFollowsThePriorityOrder :
    ({ keying .interElementSpace with modeB := true, toneSnapDit := true, toneSnapDah := true } : Keyer).completesSqueeze = true
    ∧ (keying .interElementSpace).element = .dit ∧ ({ keying .interElementSpace with element := .dah } : Keyer).element = .dah := by
  decide

theorem test_witness_HeldSqueezeAlternates :
    ({ keying .interElementSpace with dit := true, dah := true } : Keyer).decideNext = some .dah := by decide

/-- A machine with no key sink, and an operation that runs no handler. -/
theorem test_witness_OutputTracesOnlyGrowAtTheirSources :
    completes (exec .stop { sounding with cfg := { Config.default with radioPresent := false } }) (fun t => t.radioKey == []) = true
    ∧ mayKey .engineStop = false ∧ ∃ t, exec .engineStop sounding = .next t := ⟨by decide, rfl, _, rfl⟩

/-- Two READs, of 2 and of 1 samples, observed as one sequence. -/
theorem test_witness_ObservationCollectsEveryOutput :
    let s : State := { State.reset with input := [command 0x3000000002000000#64 4#64 2, command 0x3000000001000000#64 4#64 1] }
    (s.observeAfter 2).map (fun o => (o.samples.length, o.idle)) = some (3, [])
    ∧ (s.time :: s.input.map Command.time).Pairwise (fun t u => t.toNat ≤ u.toNat)
    ∧ (s.input.map (fun c => slotsFor c.word)).sum = 3 := ⟨by decide, by decide, by decide⟩

theorem test_witness_StepRunsTheDecodedOperation :
    let s : State := { State.reset with input := [command 0x3000000002000000#64 4#64 2] }
    completes (step s) (fun t => t.buf == [0#32, 0#32] && t.time == 4#64 && t.input == []) = true := by decide

theorem test_witness_WellFormedWordsComplete :
    let s : State := { sounding with input := [command 0x3000000002000000#64 9#64 2] }
    s.Consistent ∧ ∃ c rest, s.input = c :: rest ∧ s.time.toNat ≤ c.time.toNat ∧ decode c.word = .ok (.read 2#24)
      ∧ (2#24 : Operand).toNat ≤ c.buffer.length :=
  ⟨consistent_of rfl rfl (orderly_tone _ _ _ (Or.inr rfl)) (by decide), _, _, rfl, by decide, by decide, by decide⟩

/-- Each reason of RefusalReasonsAreClosed and of StepWaitsAndKeepsTimeOrder. -/
theorem test_witness_RefusalReasonsAreClosed :
    refusedWith (step { State.reset with input := [command 0x3000000002000000#64 9#64 1] }) .bufferTooShort = true
    ∧ refusedWith (step { State.reset with time := 9#64, input := [command 0x2100000000000000#64 8#64 0] }) .timeDecreased = true
    ∧ State.reset.input = [] := by decide

theorem test_witness_StepKeepsConsistency :
    ∃ t, step { sounding with input := [command 0x2100000000000000#64 9#64 0] } = .next t := ⟨_, rfl⟩

theorem test_witness_build : Config.default.Admitted ∧ ¬ ({ Config.default with sr := 7999 } : Config).Admitted
    ∧ ({ Config.default with sr := 8000, resetFreqHz := 2000, resetWpm := 60 } : Config).Admitted := by decide

theorem test_witness_CountsFitTheirFields : sounding.FitsWidths := by
  constructor <;> decide

end Sys2Proof.Tests
end

