-- ==== Sys2Proof/Proofs/Encoding.lean ====
section
/-! PROOF. Which command words are refused (30_encoding.md R46, R47, R49), and the step at one. -/

namespace Sys2Proof

/-- A row's check refuses exactly when a field it requires to be zero is not. -/
theorem whenUnusedZero_error_iff (unusedZero : Bool) (i : Instr) :
    (∃ why, whenUnusedZero unusedZero i = .error why) ↔ unusedZero = false := by
  cases unusedZero <;> simp [whenUnusedZero]

/-- A word is refused for a RES bit, or by the row of its OP. -/
theorem decode_error_iff (w : CmdWord) :
    (∃ why, decode w = .error why) ↔ resField w ≠ 0#6 ∨ ∃ why, decodeByOp w = .error why := by
  by_cases hres : resField w = 0#6 <;> simp [decode, hres]

/-- QUEUE_SILENCE is refused for P1, its one unused field, or by R47's check. -/
theorem decodeByOp_queueSilence_error_iff {w : CmdWord} (hop : (opField w).toNat = 0x12) :
    (∃ why, decodeByOp w = .error why) ↔ p1Field w = true ∨ (p0Field w = false ∧ bField w ≠ 0#24) := by
  by_cases htone : p0Field w = false ∧ bField w ≠ 0#24
  · simp [decodeByOp, hop, htone]
  · simp [decodeByOp, hop, htone, whenUnusedZero_error_iff]

end Sys2Proof

namespace Sys2Proof.Machine

/-- The step at a word that does not decode is the refusal with the decoder's reason (R49). -/
theorem step_of_decode_error {s : State} {c : Command} {rest : List Command} {why : DecodeError} (hin : s.input = c :: rest)
    (ht : s.time.toNat ≤ c.time.toNat) (hd : decode c.word = .error why) : step s = .refused (.illFormed why) := by
  simp [step, fetch, hin, hd, Nat.not_lt.mpr ht]

/-- Settles O3: RES is checked before OP, and then each row of R46 refuses by its own unused fields. -/
theorem wordIsRefusedExactlyWhenIllFormed : Obligations.WordIsRefusedExactlyWhenIllFormed := by
  refine ⟨fun w => ?_, fun s c rest why => step_of_decode_error⟩
  rw [decode_error_iff, or_left_comm]
  refine or_congr_right ?_
  by_cases hq : (opField w).toNat = 0x12
  · simp [decodeByOp_queueSilence_error_iff hq, hq]
  · unfold decodeByOp
    split
    case h_7 hop => exact absurd hop hq
    case h_14 => exact iff_of_true ⟨_, rfl⟩ (.inl (by simp_all))
    all_goals
      rename_i hop
      rw [whenUnusedZero_error_iff]
      simp [hop, -Bool.and_eq_false_imp, Bool.and_eq_false_iff, or_assoc]

end Sys2Proof.Machine
end

