-- ==== Sys2Proof/Proofs/EngineConfig.lean ====
section
/-! PROOF. The configuration commands (40_engine_config.md R53, R57 to R61): what each writes, the ramp they compute, and how they act on the
tone in progress. -/

namespace Sys2Proof.Machine

/-! ### What the configuration commands write -/

@[simp] theorem Registers.setFrequency_fields (c : Config) (r : Registers) (hz : Nat) :
    (r.setFrequency c hz).freqHz = hz ∧ (r.setFrequency c hz).spc = samplesPerCycle c.roundTies c.sr hz
      ∧ (r.setFrequency c hz).rampCycles = rampCyclesOf c.roundTies c.sr (r.setFrequency c hz).spc r.wpm
      ∧ (r.setFrequency c hz).l = (r.setFrequency c hz).rampCycles * (r.setFrequency c hz).spc
      ∧ (r.setFrequency c hz).vol = r.vol ∧ (r.setFrequency c hz).gain = r.gain ∧ (r.setFrequency c hz).wpm = r.wpm := by
  simp [Registers.setFrequency, Registers.recomputeRamp, Registers.regen]

@[simp] theorem Registers.setVolume_fields (r : Registers) (vol : Nat) :
    (r.setVolume vol).freqHz = r.freqHz ∧ (r.setVolume vol).spc = r.spc ∧ (r.setVolume vol).vol = vol
      ∧ (r.setVolume vol).gain = gainOf vol ∧ (r.setVolume vol).wpm = r.wpm
      ∧ (r.setVolume vol).rampCycles = r.rampCycles ∧ (r.setVolume vol).l = r.l := by
  simp [Registers.setVolume, Registers.regen]

@[simp] theorem Registers.setWpm_fields (c : Config) (r : Registers) (wpm : Nat) :
    (r.setWpm c wpm).freqHz = r.freqHz ∧ (r.setWpm c wpm).spc = r.spc ∧ (r.setWpm c wpm).vol = r.vol
      ∧ (r.setWpm c wpm).gain = r.gain ∧ (r.setWpm c wpm).wpm = wpm
      ∧ (r.setWpm c wpm).rampCycles = rampCyclesOf c.roundTies c.sr r.spc wpm
      ∧ (r.setWpm c wpm).l = (r.setWpm c wpm).rampCycles * r.spc := by
  simp [Registers.setWpm, Registers.recomputeRamp, Registers.regen]

/-- The three patches agree with the registers they are made from (R54, R56). -/
structure Registers.Patched (r : Registers) : Prop where
  cycle : r.cycle = patch .cycle r.spc r.l r.gain
  rampUp : r.rampUp = patch .rampUp r.spc r.l r.gain
  rampDown : r.rampDown = patch .rampDown r.spc r.l r.gain

theorem Registers.patched_regen (r : Registers) : r.regen.Patched := ⟨rfl, rfl, rfl⟩

theorem Registers.patched_setFrequency (c : Config) (r : Registers) (hz : Nat) : (r.setFrequency c hz).Patched :=
  Registers.patched_regen _

theorem Registers.patched_setVolume (r : Registers) (vol : Nat) : (r.setVolume vol).Patched :=
  Registers.patched_regen _

theorem Registers.patched_setWpm (c : Config) (r : Registers) (wpm : Nat) : (r.setWpm c wpm).Patched :=
  Registers.patched_regen _

theorem exec_setFrequency_accepted {hz : Operand} (s : State) (h : 100 ≤ hz.toInt ∧ hz.toInt ≤ 2000) :
    exec (.setFrequency hz) s = .next { s with reg := s.reg.setFrequency s.cfg hz.toInt.toNat } :=
  if_pos h

theorem exec_setFrequency_ignored {hz : Operand} (s : State) (h : ¬ (100 ≤ hz.toInt ∧ hz.toInt ≤ 2000)) :
    exec (.setFrequency hz) s = .next s :=
  if_neg h

theorem exec_setVolume (pct : Operand) (s : State) :
    exec (.setVolume pct) s = .next { s with reg := s.reg.setVolume (clamp pct.toInt 0 100).toNat } := rfl

theorem exec_setWpm (wpm : Operand) (s : State) :
    exec (.setWpm wpm) s = .next { s with reg := s.reg.setWpm s.cfg (clamp wpm.toInt 5 60).toNat } := rfl

/-- Clamping to a range of naturals gives a natural. -/
theorem coe_toNat_clamp (v : Int) {lo hi : Int} (h0 : 0 ≤ lo) (h : lo ≤ hi) :
    ((clamp v lo hi).toNat : Int) = min hi (max lo v) := by
  unfold clamp
  omega

/-- Settles O13: R58's two branches. -/
theorem setFrequencySnapsOrIgnores : Obligations.SetFrequencySnapsOrIgnores := by
  refine fun hz s => ⟨fun h => ⟨_, exec_setFrequency_accepted s h, rfl, ?_⟩, exec_setFrequency_ignored s⟩
  obtain ⟨hfreq, hspc, hcycles, hl, hvol, hgain, hwpm⟩ := s.reg.setFrequency_fields s.cfg hz.toInt.toNat
  obtain ⟨hcycle, hup, hdown⟩ := s.reg.patched_setFrequency s.cfg hz.toInt.toNat
  exact ⟨hfreq, hspc, hcycles, hl, hvol, hgain, hwpm, hcycle, hup, hdown⟩

/-- Settles O14: SET_VOLUME writes E.VOL, E.GAIN and the patches alone. -/
theorem setVolumeClampsAndRegenerates : Obligations.SetVolumeClampsAndRegenerates := by
  refine fun pct s => ⟨_, exec_setVolume pct s, rfl, ?_⟩
  obtain ⟨hfreq, hspc, hvol, hgain, hwpm, hcycles, hl⟩ := s.reg.setVolume_fields (clamp pct.toInt 0 100).toNat
  obtain ⟨hcycle, hup, hdown⟩ := s.reg.patched_setVolume (clamp pct.toInt 0 100).toNat
  refine ⟨?_, ?_, hfreq, hspc, hwpm, hcycles, hl, hcycle, hup, hdown⟩
  · exact hvol ▸ coe_toNat_clamp _ (by decide) (by decide)
  · simp [gainOf]

/-- Settles O15: SET_WPM writes E.WPM, the ramp and the patches alone. -/
theorem setWpmClampsAndRecomputesRamp : Obligations.SetWpmClampsAndRecomputesRamp := by
  refine fun wpm s => ⟨_, exec_setWpm wpm s, rfl, ?_⟩
  obtain ⟨hfreq, hspc, hvol, hgain, hwpm, hcycles, hl⟩ := s.reg.setWpm_fields s.cfg (clamp wpm.toInt 5 60).toNat
  obtain ⟨hcycle, hup, hdown⟩ := s.reg.patched_setWpm s.cfg (clamp wpm.toInt 5 60).toNat
  refine ⟨?_, ?_, hl, hfreq, hspc, hvol, hgain, hcycle, hup, hdown⟩
  · exact hwpm ▸ coe_toNat_clamp _ (by decide) (by decide)
  · exact hwpm ▸ hcycles

/-! ### The ramp (R53) -/

/-- In whole numbers: twice the rounding, times the denominator, is within the denominator of twice the numerator (R9). -/
theorem two_mul_roundTies_mul_bounds (ties : RoundTies) (n : Nat) {d : Nat} (hd : 0 < d) :
    2 * (roundTies ties n d * d) ≤ 2 * n + d ∧ 2 * n ≤ 2 * (roundTies ties n d * d) + d := by
  have hlt : n % d < d := Nat.mod_lt n hd
  have hdiv : n / d * d + n % d = n := Nat.div_add_mod' n d
  have hsucc : (n / d + 1) * d = n / d * d + d := Nat.succ_mul _ _
  unfold roundTies
  split_ifs with hbelow habove
  · omega
  · omega
  · cases ties with
    | awayFromZero => simp only; omega
    | toEven =>
      rcases Nat.mod_two_eq_zero_or_one (n / d) with h | h <;> simp only [h, Nat.add_zero] <;> omega

/-- `round_ties` is off by at most one half (R9). -/
theorem abs_roundTies_sub_le (ties : RoundTies) (n : Nat) {d : Nat} (hd : 0 < d) :
    |(roundTies ties n d : ℚ) - (n : ℚ) / d| ≤ 1 / 2 := by
  obtain ⟨hup, hlow⟩ := two_mul_roundTies_mul_bounds ties n hd
  have hd' : (0 : ℚ) < d := by exact_mod_cast hd
  have hup' : 2 * ((roundTies ties n d : ℚ) * d) ≤ 2 * n + d := by exact_mod_cast hup
  have hlow' : 2 * (n : ℚ) ≤ 2 * ((roundTies ties n d : ℚ) * d) + d := by exact_mod_cast hlow
  have hn : (n : ℚ) / d * d = n := div_mul_cancel₀ _ hd'.ne'
  rw [abs_le]
  constructor <;> nlinarith

/-- The dit is at least 50 ms exactly up to 24 WPM (R53). -/
theorem fifty_le_dit_iff {wpm : Nat} (h : 0 < wpm) : (50 : ℚ) ≤ 1200 / (wpm : ℚ) ↔ wpm ≤ 24 := by
  rw [le_div_iff₀ (by exact_mod_cast h)]
  constructor
  · intro h50
    have : 50 * wpm ≤ 1200 := by exact_mod_cast h50
    omega
  · intro h24
    have : 50 * wpm ≤ 1200 := by omega
    exact_mod_cast this

/-- The ramp's exact duration: 5 ms, or a tenth of the dit (R53). -/
theorem rampMs_value {wpm : Nat} (h : 0 < wpm) :
    0 < (rampMs wpm).den ∧ ((rampMs wpm).num : ℚ) / (rampMs wpm).den
      = if (50 : ℚ) ≤ 1200 / (wpm : ℚ) then 5 else 1200 / (wpm : ℚ) / 10 := by
  have hiff : 50 * wpm ≤ 1200 ↔ wpm ≤ 24 := by omega
  simp only [rampMs, fifty_le_dit_iff h, hiff]
  split_ifs
  · norm_num
  · refine ⟨Nat.mul_pos (by decide) h, ?_⟩
    push_cast
    ring

/-- Settles O11: the fraction that E.RAMP_CYCLES rounds is the ramp's exact samples over E.SPC. -/
theorem rampIsTheNearestWholeNumberOfCycles : Obligations.RampIsTheNearestWholeNumberOfCycles := by
  intro s hs dit ramp quotient
  have hcfg := hs.configured
  have hwpm : 0 < s.reg.wpm := by have := hcfg.wpmLegal; omega
  have hspc : 1 ≤ s.reg.spc := (Registers.nonEmpty_of_configured hs.admitted hcfg).1
  obtain ⟨hden, hramp⟩ := rampMs_value hwpm
  have hd : 0 < (rampMs s.reg.wpm).den * 1000 * s.reg.spc := by positivity
  have hq : ((((rampMs s.reg.wpm).num * s.cfg.sr : Nat) : ℚ)) / ((rampMs s.reg.wpm).den * 1000 * s.reg.spc : Nat)
      = quotient := by
    simp only [quotient, ramp, dit, ← hramp]
    push_cast
    field_simp
  refine ⟨⟨_, _, hd, hq, hcfg.cyclesOfRamp, ?_⟩, hcfg.lengthOfRamp, ?_, ?_, fifty_le_dit_iff hwpm⟩
  · exact hq ▸ abs_roundTies_sub_le _ _ hd
  · simp [hcfg.rampUpPatch, patchLength]
  · simp [hcfg.rampDownPatch, patchLength]

/-! ### The tone in progress (R57) -/

/-- A configuration command leaves the playback state. -/
theorem exec_play_of_configures {i : Instr} {s t : State} (hi : configures i = true) (h : exec i s = .next t) :
    t.play = s.play := by
  cases i with
  | setFrequency hz =>
    by_cases hhz : 100 ≤ hz.toInt ∧ hz.toInt ≤ 2000
    · rw [exec_setFrequency_accepted s hhz] at h
      cases h
      rfl
    · rw [exec_setFrequency_ignored s hhz] at h
      cases h
      rfl
  | setVolume pct => cases h; rfl
  | setWpm wpm => cases h; rfl
  | setModeB b => cases h; rfl
  | _ => cases hi

/-- The length of the active patch, for a tone state; Silent and TimedSilence play none. -/
def Playback.phaseLength (r : Registers) (p : Playback) : Nat :=
  match p.engState with
  | .silent => 0
  | .rampUp => r.l
  | .sustain => r.spc
  | .rampDown => r.l
  | .timedSilence => 0

/-- The playback state at another index. -/
def Playback.atPos (p : Playback) (q : Nat) : Playback := { p with pos := q }

/-- The state with its playback at another index. -/
def State.atPos (s : State) (q : Nat) : State := s.setPlay (s.play.atPos q)

@[simp] theorem State.atPos_fields (s : State) (q : Nat) :
    (s.atPos q).cfg = s.cfg ∧ (s.atPos q).reg = s.reg ∧ (s.atPos q).play = s.play.atPos q := ⟨rfl, rfl, rfl⟩

/-- A sample of the active phase is there to be emitted, when nothing is owed (R80). -/
structure Playback.WithinPhase (r : Registers) (p : Playback) : Prop where
  tone : p.engState.isTone = true
  below : p.pos < p.phaseLength r
  goesOn : p.engState = .sustain → p.indefinite = true ∨ 1 ≤ p.sustainLeft

/-- The owed events of a tone: an abandoned tone's OnToneComplete, and the tone's own OnToneStart (R81). -/
abbrev SettleAction.IsToneDelivery (a : SettleAction) : Prop := a = .deliverAbandoned ∨ a = .deliverStart

/-- The actions of a tone state that end a ramp, a cycle or the whole Sustain (R81, R82). -/
abbrev SettleAction.EndsPhase (a : SettleAction) : Prop :=
  a = .rampUpDone ∨ a = .sustainDone ∨ a = .cycleDone ∨ a = .toneEnd

/-- Delivering an owed OnToneStart or OnToneComplete keeps a tone's phase: E.ENG_STATE, E.POS and what there is to sustain. -/
theorem State.perform_delivery_phase (s : State) {a : SettleAction} (ht : s.play.engState.isTone = true)
    (ha : a.IsToneDelivery) :
    (s.perform a).play.engState = s.play.engState ∧ (s.perform a).play.pos = s.play.pos
      ∧ (s.perform a).play.indefinite = s.play.indefinite ∧ (s.perform a).play.sustainLeft = s.play.sustainLeft := by
  have hplay := s.perform_play a
  rcases ha with rfl | rfl
  · rcases hplay with h | h
    · simp [h, Playback.ackComplete]
    · cases hs : s.play.engState <;> simp_all [Playback.queueSilence, Playback.ackComplete, EngState.isTone]
  · simp [hplay, Playback.ackStart]

/-- Settling a tone within its phase finds nothing but deliveries to make. -/
theorem Playback.WithinPhase.settleAction {r : Registers} {lead : Nat} {p : Playback} {a : SettleAction}
    (h : p.WithinPhase r) (ha : p.settleAction r lead = some a) : a.IsToneDelivery := by
  obtain ⟨ht, hb, hg⟩ := h
  have hp := Playback.settleAction_some ha
  cases a
  case deliverAbandoned => exact .inl rfl
  case deliverStart => exact .inr rfl
  all_goals
    simp_all [Playback.phaseLength, EngState.isTone]
  all_goals omega

/-- Settling a tone within its phase keeps its phase and its index. -/
theorem State.settle_of_withinPhase {s : State} (h : s.play.WithinPhase s.reg) :
    s.settle.play.engState = s.play.engState ∧ s.settle.play.pos = s.play.pos := by
  unfold State.settle
  generalize settlePasses = fuel
  induction fuel generalizing s with
  | zero => exact ⟨rfl, rfl⟩
  | succ fuel ih =>
    unfold State.settleWithin
    split
    · exact ⟨rfl, rfl⟩
    · next a ha =>
      obtain ⟨hst, hpos, hind, hleft⟩ := s.perform_delivery_phase h.tone (h.settleAction ha)
      obtain ⟨ht, hb, hg⟩ := h
      have hw : (s.perform a).play.WithinPhase (s.perform a).reg := by
        constructor <;> simp_all [Playback.phaseLength]
      simpa [hst, hpos] using ih hw

/-- So the sample of a tone within its phase is the one at the old index (R57, R80). -/
theorem State.settle_currentSample_of_withinPhase {s : State} (h : s.play.WithinPhase s.reg) :
    s.settle.play.currentSample s.reg = s.play.currentSample s.reg := by
  obtain ⟨hstate, hpos⟩ := State.settle_of_withinPhase h
  simp only [Playback.currentSample, hstate, hpos]

theorem Playback.queueSilence_atPos {p : Playback} (q : Nat) (sil : QueuedSilence) (h : p.engState ≠ .silent) :
    (p.atPos q).queueSilence sil = (p.queueSilence sil).atPos q := by
  cases hs : p.engState <;> simp_all [Playback.queueSilence, Playback.atPos]

theorem State.onToneStart_atPos (s : State) (q : Nat) : (s.atPos q).onToneStart = s.onToneStart.atPos q := by
  simp only [State.onToneStart, show (s.atPos q).key = s.key from rfl]
  split <;> rfl

theorem State.onToneComplete_atPos {s : State} (q : Nat) (h : s.play.engState ≠ .silent) :
    (s.atPos q).onToneComplete = s.onToneComplete.atPos q := by
  simp only [State.onToneComplete, show (s.atPos q).key = s.key from rfl]
  split
  · exact congrArg _ (Playback.queueSilence_atPos q _ h)
  · rfl

/-- A delivery neither reads nor writes the index. -/
theorem State.perform_delivery_atPos (s : State) (q : Nat) {a : SettleAction} (ht : s.play.engState.isTone = true)
    (ha : a.IsToneDelivery) : (s.atPos q).perform a = (s.perform a).atPos q := by
  have hns : s.play.engState ≠ .silent := fun h => by simp [h, EngState.isTone] at ht
  rcases ha with rfl | rfl
  · exact State.onToneComplete_atPos (s := s.setPlay s.play.ackComplete) q hns
  · exact State.onToneStart_atPos (s.setPlay s.play.ackStart) q

/-- The end of a phase sets the index to 0, whatever it was (R81, R82). -/
theorem State.perform_phaseEnd_atPos (s : State) (q : Nat) {a : SettleAction}
    (ha : a.EndsPhase) : (s.atPos q).perform a = s.perform a := by
  rcases ha with rfl | rfl | rfl | rfl <;> rfl

/-- An exhausted patch is told by the index being at or past its length, and no more is read of the index (R81). -/
theorem Playback.settleAction_atPos {r : Registers} (lead : Nat) {p : Playback} {q : Nat} (hp : p.phaseLength r ≤ p.pos)
    (hq : p.phaseLength r ≤ q) : (p.atPos q).settleAction r lead = p.settleAction r lead := by
  unfold Playback.settleAction Playback.atPos
  unfold Playback.phaseLength at hp hq
  cases hs : p.engState <;> simp_all

/-- Settling a tone with its patch exhausted finds a delivery to make, or the end of the phase. -/
theorem Playback.settleAction_of_exhausted {r : Registers} (lead : Nat) {p : Playback} (ht : p.engState.isTone = true)
    (hp : p.phaseLength r ≤ p.pos) :
    ∃ a, p.settleAction r lead = some a ∧ (a.IsToneDelivery ∨ a.EndsPhase) := by
  cases ha : p.settleAction r lead with
  | none =>
    have hn := Playback.settleAction_none ha
    cases hs : p.engState <;> simp_all [Playback.phaseLength, EngState.isTone] <;> omega
  | some a =>
    have hsome := Playback.settleAction_some ha
    refine ⟨a, rfl, ?_⟩
    cases a <;> simp_all [EngState.isTone, SettleAction.IsToneDelivery, SettleAction.EndsPhase]

/-- Past its length, the index makes no difference to settling. -/
theorem State.settle_atPos {s : State} (hne : s.reg.NonEmpty) {q : Nat} (ht : s.play.engState.isTone = true)
    (hp : s.play.phaseLength s.reg ≤ s.play.pos) (hq : s.play.phaseLength s.reg ≤ q) : s.settle = (s.atPos q).settle := by
  induction hm : s.play.passes s.reg s.cfg.lead using Nat.strong_induction_on generalizing s with
  | _ m ih =>
  obtain ⟨a, ha, hkind⟩ := Playback.settleAction_of_exhausted s.cfg.lead ht hp
  have haq : (s.atPos q).play.settleAction (s.atPos q).reg (s.atPos q).cfg.lead = some a :=
    (Playback.settleAction_atPos s.cfg.lead hp hq).trans ha
  rw [State.settle_eq_perform hne ha, State.settle_eq_perform (by exact hne) haq]
  rcases hkind with hdel | hend
  · obtain ⟨hst, hpos, -, -⟩ := s.perform_delivery_phase ht hdel
    have hlen : (s.perform a).play.phaseLength (s.perform a).reg = s.play.phaseLength s.reg := by
      simp [Playback.phaseLength, hst]
    have hlt := hm ▸ s.passes_perform_lt hne ha
    rw [s.perform_delivery_atPos q ht hdel]
    exact ih _ hlt (by simpa using hne) (by rwa [hst]) (by rwa [hlen, hpos]) (by rwa [hlen]) (by simp)
  · rw [s.perform_phaseEnd_atPos q hend]

/-- Settles O17: within its phase a tone keeps its index over the settle; past its length, what the index is makes no difference. -/
theorem configurationActsOnTheToneInProgress : Obligations.ConfigurationActsOnTheToneInProgress := by
  intro i s t hi h hne
  have hplay := exec_play_of_configures hi h
  rw [← hplay]
  have hend : ∀ len, t.play.engState.isTone = true → t.play.phaseLength t.reg = len → len ≤ t.play.pos →
      t.settle = (t.atPos len).settle := fun len ht hlen hle => State.settle_atPos hne ht (hlen ▸ hle) hlen.le
  refine ⟨rfl, fun hs => ⟨fun hb => ?_, hend _ (hs ▸ rfl) (by simp [Playback.phaseLength, hs])⟩,
    fun hs => ⟨fun hg hb => ?_, hend _ (hs ▸ rfl) (by simp [Playback.phaseLength, hs])⟩,
    fun hs => ⟨fun hb => ?_, hend _ (hs ▸ rfl) (by simp [Playback.phaseLength, hs])⟩⟩
  all_goals
    have hw : t.play.WithinPhase t.reg := by constructor <;> simp_all [Playback.phaseLength, EngState.isTone]
    rw [State.settle_currentSample_of_withinPhase hw]
    simp [Playback.currentSample, hs]

end Sys2Proof.Machine
end

