-- ==== Sys2Proof/Proofs/EngineCommands.lean ====
section
/-! PROOF. The engine's playback commands (41_engine_commands.md R62 to R75): how a duration becomes a count, where a cut enters, and what each
command does by engine state. -/

namespace Sys2Proof.Machine

/-! ### What the commands run (R69 to R73) -/

theorem exec_startTone (us : Operand) (s : State) :
    exec (.startTone us) s
      = .next (s.setPlay (s.play.toneRequest s.reg (.timed (us.toNat * s.cfg.sr / 1000000)))) :=
  toSamples_durationOperand s.cfg.sr us ▸ rfl

theorem exec_startIndefiniteTone (s : State) :
    exec .startIndefiniteTone s = .next (s.setPlay (s.play.toneRequest s.reg .indefinite)) := rfl

theorem exec_startSilenceThenTone (us ut : Operand) (s : State) :
    exec (.startSilenceThenTone us ut) s
      = .next (s.setPlay
          (s.play.silenceThenTone (us.toNat * s.cfg.sr / 1000000) (ut.toNat * s.cfg.sr / 1000000))) :=
  toSamples_durationOperand s.cfg.sr us ▸ toSamples_durationOperand s.cfg.sr ut ▸ rfl

theorem exec_engineStop (s : State) :
    exec .engineStop s = .next (s.setPlay (s.play.stop s.cfg.stopPolicy s.reg)) := rfl

/-- The following tone's count, when P0 = 1 (R45, R62, R71). -/
theorem followingOperand_map_toSamples (sr : Nat) (follow : Bool) (ut : Operand) :
    (followingOperand follow ut).map (toSamples sr) = if follow then some (ut.toNat * sr / 1000000) else none := by
  cases follow <;> simp [followingOperand, toSamples_durationOperand]

theorem exec_queueSilence (us ut : Operand) (follow : Bool) (s : State) :
    exec (.queueSilence us follow ut) s
      = .next (s.setPlay (s.play.queueSilence ⟨us.toNat * s.cfg.sr / 1000000,
          if follow then some (ut.toNat * s.cfg.sr / 1000000) else none⟩)) :=
  toSamples_durationOperand s.cfg.sr us ▸ followingOperand_map_toSamples s.cfg.sr follow ut ▸ rfl

/-! ### What the shared operations do, case by case (R64 to R68) -/

/-- The two kinds of tone in one equation (R64). -/
theorem Playback.beginTone_eq (r : Registers) (p : Playback) (t : Tone) :
    p.beginTone r t =
      { p with
        engState := .rampUp, pos := 0, startPending := true, idlePending := false
        indefinite := decide (t = .indefinite)
        sustainLeft := if t = .indefinite then 0 else (t.length - 2 * r.l) / r.spc } := by
  cases t <;> rfl

theorem Playback.cutToRampDown_of_sustain (r : Registers) {p : Playback} (h : p.engState = .sustain) :
    p.cutToRampDown r
      = { p with pos := p.pos % r.spc, engState := .rampDown, indefinite := false, sustainLeft := 0 } := by
  simp [Playback.cutToRampDown, Playback.cutIndex, h]

theorem Playback.cutToRampDown_of_rampUp (r : Registers) {p : Playback} (h : p.engState = .rampUp) :
    p.cutToRampDown r
      = { p with
          pos := r.l - r.spc * (min p.pos (r.l - 1) / r.spc + 1) + min p.pos (r.l - 1) % r.spc
          engState := .rampDown, indefinite := false, sustainLeft := 0 } := by
  simp [Playback.cutToRampDown, Playback.cutIndex, h]

theorem Playback.toneRequest_of_timedSilence (r : Registers) {p : Playback} (t : Tone) (h : p.engState = .timedSilence) :
    p.toneRequest r t = { p with qTone := some t } := by
  simp [Playback.toneRequest, h]

/-- With no tone heard and no silence in progress, the requested tone begins. -/
theorem Playback.toneRequest_of_unheard (r : Registers) {p : Playback} (t : Tone)
    (h : p.engState = .silent ∨ (p.engState = .rampUp ∧ p.startPending = true)) :
    p.toneRequest r t = { p with qSil := none, qTone := none }.beginTone r t := by
  rcases h with h | ⟨h, hs⟩
  · simp [Playback.toneRequest, h]
  · simp [Playback.toneRequest, h, hs]

/-- A tone heard and not yet ramping down is cut, and the requested tone is queued. -/
theorem Playback.toneRequest_of_heard (r : Registers) {p : Playback} (t : Tone)
    (h : (p.engState = .rampUp ∧ p.startPending = false) ∨ p.engState = .sustain) :
    p.toneRequest r t = { p.cutToRampDown r with qSil := none, qTone := some t } := by
  rcases h with ⟨h, hs⟩ | h
  · simp [Playback.toneRequest, Playback.cutToRampDown, Playback.cutIndex, h, hs]
  · simp [Playback.toneRequest, Playback.cutToRampDown, Playback.cutIndex, h]

theorem Playback.toneRequest_of_rampDown (r : Registers) {p : Playback} (t : Tone) (h : p.engState = .rampDown) :
    p.toneRequest r t = { p with qSil := none, qTone := some t } := by
  simp [Playback.toneRequest, h]

/-! ### Durations (R62) -/

/-- The quotient of naturals is the floor of the exact one. -/
theorem mul_div_eq_floor (a b d : Nat) : a * b / d = ⌊(a : ℚ) * b / d⌋₊ := by
  rw [← Nat.cast_mul, Nat.floor_div_eq_div]

/-- Settles O7: all three clauses are the floor of one exact quotient. -/
theorem durationsConvertByFloor : Obligations.DurationsConvertByFloor := by
  have hword (sr : Nat) (u : Operand) : u.toNat * sr / 1000000 = ⌊(u.toNat : ℚ) * sr / 1000000⌋₊ := by
    exact_mod_cast mul_div_eq_floor u.toNat sr 1000000
  refine ⟨fun sr d _ => ?_, fun sr u => ?_, fun u s t hs h => ?_⟩
  · rw [toSamples, mul_div_eq_floor]
    congr 1
    push_cast
    ring
  · rw [toSamples_durationOperand, hword]
  · rw [exec_startTone, Playback.toneRequest_of_timedSilence _ _ hs, hword] at h
    cases h
    rfl

/-! ### The cut (R66) -/

/-- In a ramp of whole cycles, the index a cut from `p` enters at is `p`'s phase, in the cycle as far before the ramp's end as `p`'s is
after its beginning. -/
theorem exists_rampUp_cutIndex_eq {spc cycles p : Nat} (hp : p < cycles * spc) :
    ∃ before, cycles = before + (p / spc + 1)
      ∧ cycles * spc - spc * (p / spc + 1) + p % spc = spc * before + p % spc := by
  have hcycle : p / spc < cycles := Nat.div_lt_of_lt_mul (Nat.mul_comm cycles spc ▸ hp)
  obtain ⟨before, hbefore⟩ := Nat.exists_eq_add_of_le' (show p / spc + 1 ≤ cycles from hcycle)
  refine ⟨before, hbefore, ?_⟩
  rw [Nat.mul_comm cycles, ← Nat.mul_sub, hbefore, Nat.add_sub_cancel]

/-- Settles O19: the cut from RampUp moves the index by whole cycles. -/
theorem cutKeepsTheCarrierPhase : Obligations.CutKeepsTheCarrierPhase := by
  intro s hs
  obtain ⟨hspc, hl⟩ := Registers.nonEmpty_of_configured hs.admitted hs.configured
  refine ⟨fun h => ?_, fun h => ?_⟩
  · have hpos : (s.play.cutToRampDown s.reg).pos = s.play.pos % s.reg.spc := by
      rw [Playback.cutToRampDown_of_sustain s.reg h]
    have hphase : s.play.pos % s.reg.spc < s.reg.spc := Nat.mod_lt _ hspc
    refine ⟨Playback.cutToRampDown_of_sustain s.reg h, ?_, Nat.sub_le _ _⟩
    omega
  · intro p
    have hlen := hs.configured.lengthOfRamp
    have hp : p < s.reg.l := lt_of_le_of_lt (min_le_right _ _) (by omega)
    obtain ⟨before, hcycles, hindex⟩ := exists_rampUp_cutIndex_eq (hlen ▸ hp)
    have hpos : (s.play.cutToRampDown s.reg).pos = s.reg.spc * before + p % s.reg.spc := by
      rw [Playback.cutToRampDown_of_rampUp s.reg h, ← hindex, ← hlen]
    have hl_eq : s.reg.l = s.reg.spc * before + s.reg.spc * (p / s.reg.spc + 1) := by
      rw [← Nat.mul_add, ← hcycles, hlen, Nat.mul_comm]
    have hphase : p % s.reg.spc < s.reg.spc := Nat.mod_lt _ hspc
    have hspc_le : s.reg.spc ≤ s.reg.spc * (p / s.reg.spc + 1) := Nat.le_mul_of_pos_right _ (Nat.succ_pos _)
    refine ⟨Playback.cutToRampDown_of_rampUp s.reg h, ?_, ?_, ?_⟩ <;> rw [hpos]
    · rw [Nat.mul_add_mod, Nat.mod_mod]
    · omega
    · omega

/-! ### The commands by engine state (R68 to R75) -/

/-- A tone request of any kind acts on the playback state alone (R68, R69, R72). -/
theorem exec_toneRequest {i : Instr} {tone : Tone} {s : State}
    (h : i = .startIndefiniteTone ∧ tone = .indefinite
      ∨ ∃ us : Operand, i = .startTone us ∧ tone = .timed (us.toNat * s.cfg.sr / 1000000)) :
    exec i s = .next (s.setPlay (s.play.toneRequest s.reg tone)) := by
  rcases h with ⟨rfl, rfl⟩ | ⟨us, rfl, rfl⟩
  · exact exec_startIndefiniteTone s
  · exact exec_startTone us s

/-- Settles O18: R68's cases. -/
theorem toneRequestActsByEngineState : Obligations.ToneRequestActsByEngineState := by
  refine fun i tone s h => ⟨_, exec_toneRequest h, rfl, ?_, ?_, ?_, ?_, ?_⟩ <;> intro hs <;>
    simp only [State.setPlay_fields]
  · exact Playback.toneRequest_of_timedSilence s.reg tone hs
  · rw [Playback.toneRequest_of_unheard s.reg tone hs, Playback.beginTone_eq]
  · rw [Playback.toneRequest_of_heard s.reg tone (.inl hs), Playback.cutToRampDown_of_rampUp s.reg hs.1]
  · rw [Playback.toneRequest_of_heard s.reg tone (.inr hs), Playback.cutToRampDown_of_sustain s.reg hs]
  · exact Playback.toneRequest_of_rampDown s.reg tone hs

/-- An abandoned tone's OnToneComplete is owed unless its OnToneStart still is (R67). -/
theorem Playback.abandonTone_eq (p : Playback) :
    p.abandonTone =
      { p with
        completePending := if p.startPending then p.completePending else true
        startPending := false, indefinite := false, sustainLeft := 0, pos := 0 } := by
  cases h : p.startPending <;> simp [Playback.abandonTone, h]

/-- Settles O20: R70 with R65 and R67, a tone being abandoned where one is active. -/
theorem silenceThenToneBeginsAtOnce : Obligations.SilenceThenToneBeginsAtOnce := by
  refine fun us ut s => ⟨_, exec_startSilenceThenTone us ut s, rfl, ?_, ?_⟩ <;> intro ht <;>
    simp only [State.setPlay_fields, Playback.silenceThenTone]
  · rw [if_neg (by simp [ht])]
    rfl
  · rw [if_pos ht, Playback.abandonTone_eq]
    rfl

theorem Playback.queueSilence_of_silent {p : Playback} (q : QueuedSilence) (h : p.engState = .silent) :
    p.queueSilence q = p.beginSilence q := by
  simp [Playback.queueSilence, h]

theorem Playback.queueSilence_of_ne_silent {p : Playback} (q : QueuedSilence) (h : p.engState ≠ .silent) :
    p.queueSilence q = { p with qSil := some q } := by
  cases hs : p.engState <;> simp_all [Playback.queueSilence]

/-- Settles O21: R71's two branches, a silence that begins taking its following tone into E.Q_TONE. -/
theorem queueSilenceStartsOrSupersedes : Obligations.QueueSilenceStartsOrSupersedes := by
  refine fun us ut follow s => ⟨_, exec_queueSilence us ut follow s, rfl, fun hs => ?_,
    Playback.queueSilence_of_ne_silent _⟩
  simp only [State.setPlay_fields, Playback.queueSilence_of_silent _ hs]
  cases follow <;> rfl

theorem Playback.stop_of_silent (policy : StopPolicy) (r : Registers) {p : Playback} (h : p.engState = .silent) :
    p.stop policy r = p.clearQueues := by
  simp [Playback.stop, h]

theorem Playback.stop_of_timedSilence (policy : StopPolicy) (r : Registers) {p : Playback}
    (h : p.engState = .timedSilence) : p.stop policy r = p.clearQueues.dropSilence := by
  simp [Playback.stop, h]

theorem Playback.stop_of_unheard (policy : StopPolicy) (r : Registers) {p : Playback} (h : p.engState = .rampUp)
    (hs : p.startPending = true) : p.stop policy r = p.clearQueues.dropUnheard := by
  simp [Playback.stop, h, hs]

/-- A tone that has been heard is the policy's (R73). -/
theorem Playback.stop_of_heard (policy : StopPolicy) (r : Registers) {p : Playback}
    (h : p.engState = .rampUp ∧ p.startPending = false ∨ p.engState = .sustain ∨ p.engState = .rampDown) :
    p.stop policy r = p.clearQueues.policyStop policy r := by
  rcases h with ⟨h, hs⟩ | h | h
  · simp [Playback.stop, h, hs]
  · simp [Playback.stop, h]
  · simp [Playback.stop, h]

/-- Graceful cuts a tone that is not yet ramping down (R74). -/
theorem Playback.stop_graceful_of_heard (r : Registers) {p : Playback}
    (h : (p.engState = .rampUp ∧ p.startPending = false) ∨ p.engState = .sustain) :
    p.stop .graceful r = (p.cutToRampDown r).clearQueues := by
  rw [Playback.stop_of_heard _ _ (h.imp_right .inl)]
  rcases h with ⟨h, -⟩ | h <;>
    simp [Playback.policyStop, Playback.gracefulStop, Playback.clearQueues, Playback.cutToRampDown, Playback.cutIndex, h]

theorem Playback.stop_graceful_of_rampDown (r : Registers) {p : Playback} (h : p.engState = .rampDown) :
    p.stop .graceful r = { p.clearQueues with indefinite := false } := by
  rw [Playback.stop_of_heard _ _ (.inr (.inr h))]
  simp [Playback.policyStop, Playback.gracefulStop, Playback.clearQueues, h]

/-- Settles O22: R73's cases, with R74 and R75 for a tone that has been heard. -/
theorem engineStopActsByStateAndPolicy : Obligations.EngineStopActsByStateAndPolicy := by
  refine fun s => ⟨_, exec_engineStop s, rfl, Playback.stop_of_silent _ _, Playback.stop_of_timedSilence _ _,
    Playback.stop_of_unheard _ _, fun hpol => ⟨fun h hs => ?_, fun h => ?_, fun h => ?_⟩, fun hpol h => ?_⟩ <;>
    simp only [State.setPlay_fields, hpol]
  · rw [Playback.stop_graceful_of_heard _ (.inl ⟨h, hs⟩), Playback.cutToRampDown_of_rampUp _ h]
    rfl
  · rw [Playback.stop_graceful_of_heard _ (.inr h), Playback.cutToRampDown_of_sustain _ h]
    rfl
  · rw [Playback.stop_graceful_of_rampDown _ h]
    rfl
  · rw [Playback.stop_of_heard _ _ h, Playback.policyStop, Playback.truncateStop, Playback.abandonTone_eq]
    rfl

end Sys2Proof.Machine
end

