-- ==== Sys2Proof/Proofs/EngineRead.lean ====
section
/-! PROOF. READ (42_engine_read.md R79 to R84): the slots it fills, the order of settle's checks, and what the end of a tone or of a silence
begins. -/

namespace Sys2Proof.Machine

/-! ### The slots and the sample stream (R79) -/

/-- The slots that READ's loop has written hold the samples of its turns, in order. -/
theorem State.readSlots_buf_take (n : Nat) (s : State) (hb : n ≤ s.buf.length) :
    (State.readSlots n 0 s).buf.take n
      = (List.range n).map (fun k => (State.readSlots k 0 s).settle.play.currentSample s.reg) := by
  refine List.ext_getElem? fun k => ?_
  by_cases hk : k < n
  · have hslot := State.readSlots_slot_inside n 0 s hk (by omega)
    rw [Nat.zero_add] at hslot
    rw [List.getElem?_take_of_lt hk, List.getElem?_map, List.getElem?_range hk]
    exact hslot
  · simp [hk]

/-- Settles O23: the last settle and READ_RESULT touch neither buffer nor stream, so both are the loop's. -/
theorem readWritesExactlyItsSlots : Obligations.ReadWritesExactlyItsSlots := by
  intro count s hb
  have hslot : ∀ k, ({ s.readSamples count.toNat with readResult := some count } : State).slot k
      = (State.readSlots count.toNat 0 s).slot k := fun k => by simp [State.slot, State.readSamples]
  obtain ⟨hcfg, hreg, hin, htime, -⟩ := s.readSamples_fields count.toNat
  obtain ⟨hdit, hdah, hmode⟩ := (State.readSlots count.toNat 0 s).settle_paddles
  obtain ⟨hdit', hdah', hmode'⟩ := State.readSlots_paddles count.toNat 0 s
  refine ⟨_, exec_read hb, rfl, by simp [State.readSamples], fun k hk => ?_, fun k hk => ?_, ?_,
    hcfg, hreg, hin, htime, hdit.trans hdit', hdah.trans hdah', hmode.trans hmode'⟩
  · rw [hslot]
    simpa using State.readSlots_slot_inside count.toNat 0 s hk (by omega)
  · rw [hslot]
    exact State.readSlots_slot_outside _ _ s (.inr (by omega))
  · simp only [State.readSamples_samples, ← State.readSlots_buf_take count.toNat s hb]
    simp [State.readSamples]

/-! ### The checks of settle, engine state by engine state (R81) -/

section
variable {r : Registers} {lead : Nat} {p : Playback}

theorem Playback.settleAction_of_completePending (hc : p.completePending = true) :
    p.settleAction r lead = some .deliverAbandoned := by
  simp [Playback.settleAction, hc]

theorem Playback.settleAction_of_silent (hc : p.completePending = false) (hs : p.engState = .silent) :
    p.settleAction r lead = if p.idlePending then some .deliverIdle else none := by
  simp [Playback.settleAction, hc, hs]

theorem Playback.settleAction_of_rampUp (hc : p.completePending = false) (hs : p.engState = .rampUp) :
    p.settleAction r lead
      = if p.startPending then some .deliverStart else if r.l ≤ p.pos then some .rampUpDone else none := by
  simp [Playback.settleAction, hc, hs]

theorem Playback.settleAction_of_sustain (hc : p.completePending = false) (hs : p.engState = .sustain) :
    p.settleAction r lead
      = if p.indefinite = false ∧ p.sustainLeft = 0 then some .sustainDone
        else if r.spc ≤ p.pos then some .cycleDone else none := by
  simp [Playback.settleAction, hc, hs]

theorem Playback.settleAction_of_rampDown (hc : p.completePending = false) (hs : p.engState = .rampDown) :
    p.settleAction r lead = if r.l ≤ p.pos then some .toneEnd else none := by
  simp [Playback.settleAction, hc, hs]

theorem Playback.settleAction_of_timedSilence (hc : p.completePending = false) (hs : p.engState = .timedSilence) :
    p.settleAction r lead
      = if p.beforeEndFired = false ∧ p.silenceLeft ≤ lead then some .deliverBeforeEnd
        else if p.silenceLeft = 0 then some .silenceEnd else none := by
  simp [Playback.settleAction, hc, hs]

end

/-- Settles O27: the check that holds is found by the engine state's equation, and `settle_eq_perform` makes it and starts again. -/
theorem settleFollowsItsChecksInOrder : Obligations.SettleFollowsItsChecksInOrder := by
  intro s hne
  refine ⟨fun hc => State.settle_eq_perform hne (Playback.settleAction_of_completePending hc), fun hc =>
    ⟨fun hs => ?silent, fun hs => ?rampUp, fun hs => ?sustain, fun hs => ?rampDown, fun hs => ?timedSilence⟩⟩
  case silent =>
    have hact := Playback.settleAction_of_silent (r := s.reg) (lead := s.cfg.lead) hc hs
    exact ⟨fun hi => State.settle_eq_perform hne (a := .deliverIdle) (by simp [hact, hi]),
      fun hi => State.settle_of_ready (by simp [hact, hi])⟩
  case rampUp =>
    have hact := Playback.settleAction_of_rampUp (r := s.reg) (lead := s.cfg.lead) hc hs
    exact ⟨fun hp => State.settle_eq_perform hne (a := .deliverStart) (by simp [hact, hp]),
      fun hp hl => State.settle_eq_perform hne (a := .rampUpDone) (by simp [hact, hp, hl]),
      fun hp hl => State.settle_of_ready (by simp [hact, hp, hl])⟩
  case sustain =>
    have hact := Playback.settleAction_of_sustain (r := s.reg) (lead := s.cfg.lead) hc hs
    have hgoesOn (h : s.play.indefinite = true ∨ 0 < s.play.sustainLeft) :
        ¬ (s.play.indefinite = false ∧ s.play.sustainLeft = 0) := by
      rintro ⟨hi, hz⟩
      simp [hi, hz] at h
    exact ⟨fun hd => State.settle_eq_perform hne (a := .sustainDone) (by rw [hact, if_pos hd]),
      fun hg hl => State.settle_eq_perform hne (a := .cycleDone) (by rw [hact, if_neg (hgoesOn hg), if_pos hl]),
      fun hg hl => State.settle_of_ready (by rw [hact, if_neg (hgoesOn hg), if_neg (by omega)])⟩
  case rampDown =>
    have hact := Playback.settleAction_of_rampDown (r := s.reg) (lead := s.cfg.lead) hc hs
    exact ⟨fun hl => State.settle_eq_perform hne (a := .toneEnd) (by simp [hact, hl]),
      fun hl => State.settle_of_ready (by simp [hact, hl])⟩
  case timedSilence =>
    have hact := Playback.settleAction_of_timedSilence (r := s.reg) (lead := s.cfg.lead) hc hs
    refine ⟨fun hb hl => State.settle_eq_perform hne (a := .deliverBeforeEnd) (by simp [hact, hb, hl]),
      fun hb hz => State.settle_eq_perform hne (a := .silenceEnd) (by simp [hact, hb, hz]), fun hn hz => State.settle_of_ready ?_⟩
    have hnot : ¬ (s.play.beforeEndFired = false ∧ s.play.silenceLeft ≤ s.cfg.lead) := by
      rintro ⟨hb, hl⟩
      rcases hn with hf | hf
      · simp [hb] at hf
      · omega
    rw [hact, if_neg hnot, if_neg (by omega)]

/-! ### The end of a silence (R84) -/

/-- With something queued, the end of a silence fires no event and touches the playback state alone. -/
theorem State.perform_silenceEnd_key_of_queued (s : State) (h : ¬ (s.play.qTone = none ∧ s.play.qSil = none)) :
    (s.perform .silenceEnd).key = s.key := by
  simp [State.perform, Playback.delivers, h, State.fireOption]

/-- OnSilenceComplete reads no playback state (R110). -/
theorem State.onSilenceComplete_setPlay (s : State) (p : Playback) :
    (s.setPlay p).onSilenceComplete = s.onSilenceComplete.setPlay p := by
  simp only [State.onSilenceComplete, State.setPlay_fields]
  split <;> rfl

/-- With nothing queued, it fires OnSilenceComplete. -/
theorem State.perform_silenceEnd_key_of_nothing_queued (s : State) (ht : s.play.qTone = none) (hq : s.play.qSil = none) :
    (s.perform .silenceEnd).key = (s.fire .silenceComplete).key := by
  simp [State.perform, Playback.delivers, ht, hq, State.fireOption, State.fire, State.onSilenceComplete_setPlay]

/-- Settles O35: the playback state is `leaveSilence` and `startNext`, case by case. -/
theorem silenceEndStartsWhatIsQueued : Obligations.SilenceEndStartsWhatIsQueued := by
  intro s
  have hplay : (s.perform .silenceEnd).play = _ := (s.perform_play .silenceEnd).trans (s.play.leaveSilence_startNext s.reg)
  refine ⟨fun t ht => ⟨?_, s.perform_silenceEnd_key_of_queued (by simp [ht])⟩,
    fun q ht hq => ⟨?_, s.perform_silenceEnd_key_of_queued (by simp [hq])⟩,
    fun ht hq => ⟨?_, s.perform_silenceEnd_key_of_nothing_queued ht hq⟩⟩
  · rw [hplay, ht]
  · rw [hplay, ht, hq]
  · rw [hplay, ht, hq]
    rfl

/-! ### The end of a ramp-down (R82) -/

theorem Playback.startNext_of_qSil (r : Registers) {p : Playback} {q : QueuedSilence} (hs : p.engState = .silent)
    (hq : p.qSil = some q) : p.startNext r = p.beginSilence q := by
  simp [Playback.startNext, hs, hq]

theorem Playback.startNext_of_qTone (r : Registers) {p : Playback} {t : Tone} (hs : p.engState = .silent)
    (hq : p.qSil = none) (ht : p.qTone = some t) : p.startNext r = { p with qTone := none }.beginTone r t := by
  simp [Playback.startNext, hs, hq, ht]

theorem Playback.startNext_of_nothing_queued (r : Registers) {p : Playback} (hs : p.engState = .silent)
    (hq : p.qSil = none) (ht : p.qTone = none) : p.startNext r = { p with idlePending := true } := by
  simp [Playback.startNext, hs, hq, ht]

/-- The keyer's own started element: OnToneComplete acts for it alone (R107). -/
abbrev Keyer.SoundsElement (k : Keyer) : Prop := k.keyState = .tonePlaying ∧ k.toneActive = true

theorem State.onToneComplete_of_element {s : State} (h : s.key.SoundsElement) :
    s.onToneComplete
      = ((s.setKey (s.key.completeTone s.cfg.latchClearAtToneComplete s.time)).emitKey false).queueSilence
          (gapMs s.reg.wpm) none := if_pos h

theorem State.onToneComplete_of_no_element {s : State} (h : ¬ s.key.SoundsElement) : s.onToneComplete = s := if_neg h

theorem State.perform_toneEnd (s : State) :
    s.perform .toneEnd = (s.setPlay s.play.enterSilent).onToneComplete.conclude .toneEnd := rfl

/-- At the end of an element the handler's gap begins from Silent, so nothing that was queued starts at this boundary (R71, R107). -/
theorem State.perform_toneEnd_of_element {s : State} (h : s.key.SoundsElement) :
    (s.perform .toneEnd).play = s.play.enterSilent.beginSilence s.gap
      ∧ (s.perform .toneEnd).key = s.key.completeTone s.cfg.latchClearAtToneComplete s.time := by
  rw [State.perform_toneEnd, State.onToneComplete_of_element (by exact h)]
  exact ⟨rfl, rfl⟩

/-- At the end of any other tone the handler does nothing, and what is queued begins. -/
theorem State.perform_toneEnd_of_no_element {s : State} (h : ¬ s.key.SoundsElement) :
    s.perform .toneEnd = s.setPlay (s.play.enterSilent.startNext s.reg) := by
  rw [State.perform_toneEnd, State.onToneComplete_of_no_element (by exact h)]
  rfl

/-- Settles O36: the handler's gap when it acts, else `startNext` from Silent. -/
theorem toneEndFiresThenStartsWhatIsQueued : Obligations.ToneEndFiresThenStartsWhatIsQueued := by
  intro s p
  refine ⟨fun h => ?_, fun h => ?_⟩
  · obtain ⟨hplay, hkey⟩ := State.perform_toneEnd_of_element h
    exact ⟨hplay, by rw [hkey]; rfl⟩
  · have hs : s.play.enterSilent.engState = .silent := rfl
    rw [State.perform_toneEnd_of_no_element h]
    exact ⟨fun q hq => Playback.startNext_of_qSil s.reg hs hq, fun t hq ht => Playback.startNext_of_qTone s.reg hs hq ht,
      fun hq ht => Playback.startNext_of_nothing_queued s.reg hs hq ht, rfl, rfl⟩

end Sys2Proof.Machine
end

