-- ==== Sys2Proof/Proofs/Keyer.lean ====
section
/-! PROOF. The iambic keyer (43_keyer.md R96 to R111, R116): its commands and the watchdog, its event handlers, and the decision. -/

namespace Sys2Proof.Machine

/-! ### The counts the keyer requests (R28, R62, R96) -/

theorem toSamples_elementMs (sr wpm : Nat) (e : Element) :
    toSamples sr (elementMs wpm e) = (if e = .dit then 1200 else 3600) * sr / (wpm * 1000) := by
  cases e <;> rfl

/-! ### The watchdog (R101) -/

theorem Keyer.watchdogTrips_iff (k : Keyer) (now : Time) :
    k.watchdogTrips now = true ↔ k.keyState ≠ .idle ∧ 1000000 < now.toNat - k.lastT.toNat := by
  rw [Keyer.watchdogTrips, Bool.and_eq_true, bne_iff_ne, decide_eq_true_iff, watchdogMicros]

theorem State.watchdog_of_late {s : State} (hne : s.key.keyState ≠ .idle)
    (hlate : 1000000 < s.time.toNat - s.key.lastT.toNat) : s.watchdog = s.keyerStop :=
  if_pos ((s.key.watchdogTrips_iff s.time).mpr ⟨hne, hlate⟩)

theorem State.watchdog_of_idle_or_recent {s : State}
    (h : s.key.keyState = .idle ∨ s.time.toNat - s.key.lastT.toNat ≤ 1000000) : s.watchdog = s := by
  refine if_neg fun htrips => ?_
  obtain ⟨hne, hlate⟩ := (s.key.watchdogTrips_iff s.time).mp htrips
  exact h.elim hne (Nat.not_le.mpr hlate)

/-- The keyer that `keyerStop` leaves is Idle, so the watchdog does not trip a second time (R116). -/
theorem State.watchdog_keyerStop (s : State) : s.keyerStop.watchdog = s.keyerStop :=
  State.watchdog_of_idle_or_recent (.inl (by simp [Keyer.stopped]))

/-! ### The commands (R102, R103) -/

theorem exec_updatePaddle (d h : Bool) (s : State) : exec (.updatePaddle d h) s = .next (s.watchdog.takePaddles d h) := rfl

theorem exec_stop (s : State) : exec .stop s = .next s.keyerStop := rfl

theorem State.takePaddles_of_idle_released {s : State} (hs : s.key.keyState = .idle) :
    s.takePaddles false false = s.setKey (s.key.setPaddles false false) := by
  simp [State.takePaddles, hs]

theorem State.takePaddles_of_idle_pressed {d h : Bool} {s : State} (hs : s.key.keyState = .idle) (hp : d = true ∨ h = true) :
    s.takePaddles d h = (s.setKey (s.key.setPaddles d h)).startFromIdle (if d then .dit else .dah) := by
  simp [State.takePaddles, hs, hp]

/-- Taking the paddles makes no key transition: an element started here asserts the key at its OnToneStart (R106, R112). -/
theorem State.takePaddles_key_output (d h : Bool) (s : State) :
    (s.takePaddles d h).radioKey = s.radioKey ∧ (s.takePaddles d h).key.keyAsserted = s.key.keyAsserted := by
  unfold State.takePaddles
  split
  · split <;> simp [Keyer.beginElement]
  · simp
  · simp

/-- Settles O39: a tripping watchdog runs `keyerStop`, after which the keyer is Idle and the paddles are taken with no further key transition. -/
theorem watchdogForcesStop : Obligations.WatchdogForcesStop := by
  refine fun d h s => ⟨fun hne hlate => ⟨⟨s.keyerStop, exec_stop s, ?_⟩, _, exec_updatePaddle false false s, ?_⟩, fun hquiet =>
    ⟨_, exec_updatePaddle d h s, ?_⟩⟩
  · rw [exec_updatePaddle, exec_updatePaddle, State.watchdog_of_late hne hlate, State.watchdog_keyerStop]
  · have hidle : s.keyerStop.key.keyState = .idle := by simp [Keyer.stopped]
    rw [State.watchdog_of_late hne hlate, State.takePaddles_of_idle_released hidle]
    simp [Keyer.stopped, State.keyerStop_radioKey]
  · rw [State.watchdog_of_idle_or_recent hquiet]
    exact s.takePaddles_key_output d h

/-- Settles O37: in Idle the watchdog does not trip, and the element started is the dit whenever the dit paddle is pressed. -/
theorem paddleInIdleStartsAnElement : Obligations.PaddleInIdleStartsAnElement := by
  intro d h s hs
  rw [exec_updatePaddle, State.watchdog_of_idle_or_recent (.inl hs)]
  refine ⟨?_, fun hp => ?_⟩
  · rintro rfl rfl
    rw [State.takePaddles_of_idle_released hs]
    rfl
  · rw [State.takePaddles_of_idle_pressed hs hp]
    cases d <;> rfl

/-- Settles O40: `keyerStop` emits the key-up, writes the keyer and then runs ENGINE_STOP's effect, which reads no keyer field. -/
theorem stopReleasesTheKeyAndTheEngine : Obligations.StopReleasesTheKeyAndTheEngine :=
  fun s => ⟨_, _, exec_stop s, exec_engineStop s, rfl⟩

/-- Settles O42: the playback state written is the reset one, field by field. -/
theorem swapEngineResetsPlaybackAlone : Obligations.SwapEngineResetsPlaybackAlone := fun _ => rfl

/-! ### The decision (R104, R109) -/

theorem Keyer.alternates_eq_false_iff (k : Keyer) :
    k.alternates = false ↔ k.pressed k.element.opposite = false ∧ k.latch k.element.opposite = false := by
  simp [Keyer.alternates]

theorem Keyer.repeats_eq_false_iff (k : Keyer) :
    k.repeats = false ↔ k.silSnap k.element = false ∧ k.pressed k.element = false := by
  simp [Keyer.repeats]

theorem Keyer.completesSqueeze_iff (k : Keyer) :
    k.completesSqueeze = true
      ↔ k.modeB = true ∧ k.toneSnapDit = true ∧ k.toneSnapDah = true ∧ k.dit = false ∧ k.dah = false := by
  simp [Keyer.completesSqueeze, and_assoc]

/-- The two paddles are an element's own and the opposite one. -/
theorem Keyer.released_iff (k : Keyer) (e : Element) :
    k.pressed e.opposite = false ∧ k.pressed e = false ↔ k.dit = false ∧ k.dah = false := by
  cases e
  · exact and_comm
  · rfl

/-- R109's four rules in order, for the element last sent. -/
theorem Keyer.decideNext_of_element {k : Keyer} {e : Element} (he : k.element = e) :
    k.decideNext =
      if k.pressed e.opposite = true ∨ k.latch e.opposite = true then some e.opposite
      else if k.silSnap e = true ∨ k.pressed e = true then some e
      else if k.modeB = true ∧ k.toneSnapDit = true ∧ k.toneSnapDah = true ∧ k.dit = false ∧ k.dah = false then
        some e.opposite
      else none := by
  subst he
  simp only [Keyer.decideNext, Keyer.completesSqueeze_iff, Keyer.alternates, Keyer.repeats, Bool.or_eq_true]

/-- Rule (3) needs a squeeze at the tone's start, and a tone that starts with a paddle released has none (R106, R109). -/
theorem Keyer.startTone_completesSqueeze {k : Keyer} (now : Time) (hdit : k.dit = false) :
    (k.startTone now).completesSqueeze = false := by
  simp [Keyer.completesSqueeze, Keyer.startTone, hdit]

/-- Settles O46: the same order for both elements, and rule (3) holds only with both paddles released. -/
theorem decisionFollowsThePriorityOrder : Obligations.DecisionFollowsThePriorityOrder := by
  refine fun k => ⟨Keyer.decideNext_of_element, Keyer.decideNext_of_element, fun hsq now => ?_⟩
  obtain ⟨-, -, -, hdit, -⟩ := k.completesSqueeze_iff.mp hsq
  exact Keyer.startTone_completesSqueeze now hdit

/-- Rules (1) and (2) read nothing of the mode, and rule (3) needs Mode B. -/
theorem Keyer.decideNext_withMode (k : Keyer) (b : Bool) :
    { k with modeB := b }.decideNext =
      if k.alternates = true then some k.element.opposite
      else if k.repeats = true then some k.element
      else if b = true ∧ { k with modeB := true }.completesSqueeze = true then some k.element.opposite
      else none := by
  cases b
  · simp only [Keyer.decideNext, Keyer.completesSqueeze_iff, Bool.false_eq_true, false_and]
    rfl
  · simp only [Keyer.decideNext, true_and]
    rfl

/-- Where rules (1) and (2) do not hold and rule (3) would in Mode B, the modes decide differently, and nowhere else. -/
theorem Keyer.modes_differ_iff (k : Keyer) :
    { k with modeB := true }.decideNext ≠ { k with modeB := false }.decideNext
      ↔ k.alternates = false ∧ k.repeats = false ∧ { k with modeB := true }.completesSqueeze = true := by
  rw [Keyer.decideNext_withMode, Keyer.decideNext_withMode]
  cases k.alternates <;> cases k.repeats <;> simp

/-- Settles O41: the modes differ where rule (3) alone is left, and there Mode A has no rule. -/
theorem modeBSelectsTheTrailingElement : Obligations.ModeBSelectsTheTrailingElement := by
  refine ⟨fun b s => rfl, fun k => ⟨?_, fun hdiff => ?_⟩⟩
  · rw [k.modes_differ_iff, k.alternates_eq_false_iff, k.repeats_eq_false_iff, Keyer.completesSqueeze_iff]
    have hreleased := k.released_iff k.element
    tauto
  · obtain ⟨halt, hrep, hsq⟩ := k.modes_differ_iff.mp hdiff
    simp [Keyer.decideNext_withMode, halt, hrep, hsq]

/-! ### The event handlers (R106 to R111) -/

theorem State.onToneStart_of_idle {s : State} (h : s.key.keyState = .idle) : s.onToneStart = s := by
  simp [State.onToneStart, h]

theorem State.onToneStart_of_ne_idle {s : State} (h : s.key.keyState ≠ .idle) :
    s.onToneStart = (s.setKey (s.key.startTone s.time)).emitKey true := by
  unfold State.onToneStart
  split
  · contradiction
  · rfl

theorem State.onSilenceComplete_of_interElementSpace {s : State} (h : s.key.keyState = .interElementSpace) :
    s.onSilenceComplete = s.setKey (s.key.clearLatches.setKeyState .idle s.time) := by
  simp [State.onSilenceComplete, h]

theorem State.onSilenceComplete_of_ne_interElementSpace {s : State} (h : s.key.keyState ≠ .interElementSpace) :
    s.onSilenceComplete = s := by
  unfold State.onSilenceComplete
  split
  · contradiction
  · rfl

/-- Settles O43: each handler by the keyer state it asks for. -/
theorem startAndSilenceHandlersAct : Obligations.StartAndSilenceHandlersAct :=
  fun _ => ⟨State.onToneStart_of_idle, State.onToneStart_of_ne_idle, State.onSilenceComplete_of_ne_interElementSpace,
    State.onSilenceComplete_of_interElementSpace, rfl⟩

/-- Settles O44: the handler acts for the keyer's own started element alone, and clears the latches only where the parameter says so. -/
theorem toneCompleteHandlerQueuesTheGap : Obligations.ToneCompleteHandlerQueuesTheGap := by
  refine fun s => ⟨State.onToneComplete_of_no_element, fun hstate hactive => ?_⟩
  rw [State.fire, State.onToneComplete_of_element ⟨hstate, hactive⟩]
  cases s.cfg.latchClearAtToneComplete <;> rfl

theorem State.onBeforeSilenceEnd_of_undecided {s : State}
    (h : s.key.keyState ≠ .interElementSpace ∨ s.key.decideNext = none) : s.onBeforeSilenceEnd = s := by
  unfold State.onBeforeSilenceEnd
  split
  case h_1 hspace => simp [h.resolve_left (not_not_intro hspace)]
  case h_2 => rfl

theorem State.onBeforeSilenceEnd_of_decided {s : State} {e : Element} (hspace : s.key.keyState = .interElementSpace)
    (he : s.key.decideNext = some e) :
    s.onBeforeSilenceEnd = (s.setKey { s.key.clearLatches with element := e }).startTone (elementMs s.reg.wpm e) := by
  simp [State.onBeforeSilenceEnd, hspace, he]

/-- Settles O45: the decided element's tone is requested at the current speed. -/
theorem decisionHandlerRequestsTheNextElement : Obligations.DecisionHandlerRequestsTheNextElement := by
  refine fun s => ⟨State.onBeforeSilenceEnd_of_undecided, fun e hspace he => ?_⟩
  rw [State.fire, State.onBeforeSilenceEnd_of_decided hspace he, ← toSamples_elementMs]
  rfl

end Sys2Proof.Machine
end

