-- ==== Sys2Proof/Proofs/ResetAndHazards.lean ====
section
/-! PROOF. The state after reset (70_reset_and_hazards.md R134): a configuration that the configuration commands would leave as it is. -/

namespace Sys2Proof.Machine

/-! ### Configured registers are a fixed point of the configuration commands -/

theorem Registers.Configured.recomputeRamp_eq {c : Config} {r : Registers} (h : r.Configured c) : r.recomputeRamp c = r := by
  rw [Registers.recomputeRamp, ← h.cyclesOfRamp, ← h.lengthOfRamp]

theorem Registers.Configured.regen_eq {c : Config} {r : Registers} (h : r.Configured c) : r.regen = r := by
  rw [Registers.regen, ← h.cyclePatch, ← h.rampUpPatch, ← h.rampDownPatch]

theorem Registers.Configured.setFrequency_freqHz {c : Config} {r : Registers} (h : r.Configured c) :
    r.setFrequency c r.freqHz = r := by
  rw [Registers.setFrequency, ← h.spcOfFreq, h.recomputeRamp_eq, h.regen_eq]

theorem Registers.Configured.setVolume_vol {c : Config} {r : Registers} (h : r.Configured c) : r.setVolume r.vol = r := by
  rw [Registers.setVolume, ← h.gainOfVol, h.regen_eq]

theorem Registers.Configured.setWpm_wpm {c : Config} {r : Registers} (h : r.Configured c) : r.setWpm c r.wpm = r := by
  rw [Registers.setWpm, h.recomputeRamp_eq, h.regen_eq]

/-- A natural below 2^23 is its own signed 24-bit operand (R45). -/
theorem toInt_operand_ofNat {n : Nat} (h : n < 2 ^ 23) : (BitVec.ofNat 24 n).toInt = n := by
  rw [BitVec.toInt_ofNat']
  exact Int.bmod_eq_of_le (by omega) (by omega)

theorem clamp_of_mem {v lo hi : Int} (h1 : lo ≤ v) (h2 : v ≤ hi) : clamp v lo hi = v := by
  rw [clamp, max_eq_right h1, min_eq_right h2]

theorem exec_setFrequency_freqHz {s : State} (h : s.reg.Configured s.cfg) :
    exec (.setFrequency (BitVec.ofNat 24 s.reg.freqHz)) s = .next s := by
  obtain ⟨hlo, hhi⟩ := h.freqLegal
  have hop : (BitVec.ofNat 24 s.reg.freqHz).toInt = s.reg.freqHz := toInt_operand_ofNat (by omega)
  rw [exec_setFrequency_accepted s (by omega), hop, Int.toNat_natCast, h.setFrequency_freqHz]

theorem exec_setVolume_vol {s : State} (h : s.reg.Configured s.cfg) :
    exec (.setVolume (BitVec.ofNat 24 s.reg.vol)) s = .next s := by
  have hhi := h.volLegal
  rw [exec_setVolume, toInt_operand_ofNat (by omega), clamp_of_mem (by omega) (by omega), Int.toNat_natCast, h.setVolume_vol]

theorem exec_setWpm_wpm {s : State} (h : s.reg.Configured s.cfg) :
    exec (.setWpm (BitVec.ofNat 24 s.reg.wpm)) s = .next s := by
  obtain ⟨hlo, hhi⟩ := h.wpmLegal
  rw [exec_setWpm, toInt_operand_ofNat (by omega), clamp_of_mem (by omega) (by omega), Int.toNat_natCast, h.setWpm_wpm]

/-! ### Reset -/

/-- The reset configuration is legal and agrees with itself, at every admitted parameter value. -/
theorem Registers.configured_reset {c : Config} (hc : c.Admitted) : (Registers.reset c).Configured c := by
  obtain ⟨-, hfreq, hvol, hwpm⟩ := hc
  exact ⟨hfreq, rfl, hvol, rfl, hwpm, rfl, rfl, rfl, rfl, rfl⟩

/-- Settles O58: the fields are those reset writes, and the reset registers are configured, so the three commands leave them as they are. -/
theorem resetHasItsStatedValues : Obligations.ResetHasItsStatedValues := by
  intro c t0 hc s
  have hconf : s.reg.Configured s.cfg := Registers.configured_reset hc
  have hgain : s.reg.gain * 100 = c.resetVolume := div_mul_cancel₀ _ (by norm_num)
  exact ⟨rfl, rfl, rfl, rfl, rfl, hgain, rfl, rfl, length_patch .., length_patch .., length_patch .., rfl, rfl, rfl, rfl, rfl, rfl,
    exec_setFrequency_freqHz hconf, exec_setVolume_vol hconf, exec_setWpm_wpm hconf⟩

end Sys2Proof.Machine
end

/-! PROOF. The command word, exact arithmetic and patches; how READ settles, emits, pairs its events and splits; the keyer with one
paddle; and the machine's steps: the invariants every step keeps, and what is observed of a run. -/

namespace Sys2Proof

/-! ### The command word (30_encoding.md R44 to R47) -/

/-- Settles O1: the round trip of each constructor. -/
theorem decodeOfEncodeIsIdentity : Obligations.DecodeOfEncodeIsIdentity := by
  intro i
  cases i with
  | setFrequency hz => exact Laws.RoundTrip.setFrequency hz
  | setVolume pct => exact Laws.RoundTrip.setVolume pct
  | setWpm wpm => exact Laws.RoundTrip.setWpm wpm
  | setModeB b => exact Laws.RoundTrip.setModeB b
  | startTone us => exact Laws.RoundTrip.startTone us
  | startSilenceThenTone us ut => exact Laws.RoundTrip.startSilenceThenTone us ut
  | queueSilence us follow ut => exact Laws.RoundTrip.queueSilence us follow ut
  | startIndefiniteTone => exact Laws.RoundTrip.startIndefiniteTone
  | engineStop => exact Laws.RoundTrip.engineStop
  | updatePaddle dit dah => exact Laws.RoundTrip.updatePaddle dit dah
  | stop => exact Laws.RoundTrip.stop
  | read count => exact Laws.RoundTrip.read count
  | swapEngine => exact Laws.RoundTrip.swapEngine

/-- A word that decodes has RES = 0 and is of the row of its OP. -/
theorem decode_ok_iff {w : CmdWord} {i : Instr} : decode w = .ok i ↔ resField w = 0#6 ∧ decodeByOp w = .ok i := by
  by_cases h : resField w = 0#6 <;> simp [decode, h]

/-- A word that its row accepts has the fields of the operation's word. -/
theorem encode_of_decodeByOp {w : CmdWord} {i : Instr} (h : decodeByOp w = .ok i) :
    encode i = pack (opField w) (p1Field w) (p0Field w) (aField w) (bField w) ∧ i.WellFormed := by
  unfold decodeByOp at h
  split at h
  case h_7 ho =>
    split at h
    case isTrue => cases h
    case isFalse hb =>
      obtain ⟨hz, rfl⟩ := whenUnusedZero_ok.mp h
      have hop : opField w = 0x12#8 := BitVec.eq_of_toNat_eq ho
      cases hp : p0Field w <;> simp_all [encode, Instr.WellFormed, Instr.wellFormed]
  case h_14 => cases h
  all_goals
    rename_i ho
    obtain ⟨hz, rfl⟩ := whenUnusedZero_ok.mp h
    have hop : opField w = BitVec.ofNat 8 (opField w).toNat := by simp
    rw [ho] at hop
    refine ⟨?_, rfl⟩
    simp_all [encode]

/-- Settles O2: the row gives the fields, and with RES = 0 the fields are the whole word. -/
theorem encodeOfDecodeIsIdentity : Obligations.EncodeOfDecodeIsIdentity := by
  intro w i h
  obtain ⟨hres, hrow⟩ := decode_ok_iff.mp h
  obtain ⟨hfields, hwf⟩ := encode_of_decodeByOp hrow
  exact ⟨hfields.trans (pack_fields w hres), hwf⟩

/-- Masking acts field by field (R44). -/
theorem fields_and (w m : CmdWord) :
    opField (w &&& m) = opField w &&& opField m ∧ resField (w &&& m) = resField w &&& resField m
      ∧ p1Field (w &&& m) = (p1Field w && p1Field m) ∧ p0Field (w &&& m) = (p0Field w && p0Field m)
      ∧ aField (w &&& m) = aField w &&& aField m ∧ bField (w &&& m) = bField w &&& bField m := by
  simp [opField, resField, p1Field, p0Field, aField, bField, BitVec.extractLsb'_and]

/-- Every row fixes all of OP, and asks of the other fields at most that they are zero. -/
theorem opcodeTable_fields : ∀ r ∈ opcodeTable,
    opField r.mask = 0xFF#8 ∧ pack (opField r.pattern) false false 0#24 0#24 = r.pattern := by
  decide

/-- So a word is of a row when it has the row's OP and each other field is zero or not asked for. -/
theorem OpcodeRow.matchesWord_of_fields {r : OpcodeRow} (hr : r ∈ opcodeTable) {w : CmdWord}
    (hres : resField w = 0#6) (hop : opField w = opField r.pattern)
    (hp1 : p1Field w = false ∨ p1Field r.mask = false) (hp0 : p0Field w = false ∨ p0Field r.mask = false)
    (ha : aField w = 0#24 ∨ aField r.mask = 0#24) (hb : bField w = 0#24 ∨ bField r.mask = 0#24) :
    r.matchesWord w = true := by
  obtain ⟨hmask, hpat⟩ := opcodeTable_fields r hr
  obtain ⟨hop', hres', hp1', hp0', ha', hb'⟩ := fields_and w r.mask
  have hop : opField w &&& opField r.mask = opField r.pattern := by rw [hmask, hop]; exact BitVec.and_allOnes
  have hp1 : (p1Field w && p1Field r.mask) = false := by rcases hp1 with h | h <;> simp [h]
  have hp0 : (p0Field w && p0Field r.mask) = false := by rcases hp0 with h | h <;> simp [h]
  have ha : aField w &&& aField r.mask = 0#24 := by rcases ha with h | h <;> simp [h]
  have hb : bField w &&& bField r.mask = 0#24 := by rcases hb with h | h <;> simp [h]
  rw [OpcodeRow.matchesWord, beq_iff_eq, ← pack_fields (w &&& r.mask) (by simp [hres', hres]),
    hop', hp1', hp0', ha', hb', hop, hp1, hp0, ha, hb, hpat]

/-- The row of an operation, by its place in the table (R46). -/
def Instr.row : Instr → OpcodeRow
  | .setFrequency _ => opcodeTable[0]
  | .setVolume _ => opcodeTable[1]
  | .setWpm _ => opcodeTable[2]
  | .setModeB _ => opcodeTable[3]
  | .startTone _ => opcodeTable[4]
  | .startSilenceThenTone _ _ => opcodeTable[5]
  | .queueSilence _ _ _ => opcodeTable[6]
  | .startIndefiniteTone => opcodeTable[7]
  | .engineStop => opcodeTable[8]
  | .updatePaddle _ _ => opcodeTable[9]
  | .stop => opcodeTable[10]
  | .read _ => opcodeTable[11]
  | .swapEngine => opcodeTable[12]

theorem Instr.row_mem (i : Instr) : i.row ∈ opcodeTable := by cases i <;> exact List.getElem_mem _

theorem Instr.row_mnemonic (i : Instr) : i.row.mnemonic = i.mnemonic := by cases i <;> rfl

/-- The mask clears the operands of an operation's word and leaves its pattern. -/
theorem Instr.row_matchesWord (i : Instr) : i.row.matchesWord (encode i) = true := by
  cases i <;>
    · rw [Instr.row, encode]
      refine OpcodeRow.matchesWord_of_fields (List.getElem_mem _) ?_ ?_ ?_ ?_ ?_ ?_ <;>
        simp only [resField_pack, opField_pack, p1Field_pack, p0Field_pack, aField_pack, bField_pack] <;>
        simp [opcodeTable, opField, p1Field, p0Field, aField, bField]

/-- Every row fixes all of OP, so a word of it has its OP. -/
theorem OpcodeRow.opField_of_matchesWord {r : OpcodeRow} {w : CmdWord} (hr : r ∈ opcodeTable)
    (h : r.matchesWord w = true) : opField w = opField r.pattern := by
  rw [OpcodeRow.matchesWord, beq_iff_eq] at h
  rw [← h, (fields_and w r.mask).1, (opcodeTable_fields r hr).1]
  exact BitVec.and_allOnes.symm

/-- And no two rows have one OP. -/
theorem opcodeTable_opField_injective :
    ∀ r ∈ opcodeTable, ∀ r' ∈ opcodeTable, opField r.pattern = opField r'.pattern → r = r' := by
  decide

/-- Settles O4: the word is its operation's, and two rows it is of have one OP. -/
theorem decodedWordIsOfItsTableRow : Obligations.DecodedWordIsOfItsTableRow := by
  intro w i h
  obtain ⟨rfl, -⟩ := encodeOfDecodeIsIdentity w i h
  refine ⟨i.row, i.row_mem, i.row_mnemonic, i.row_matchesWord, fun r hr hw => ?_⟩
  refine opcodeTable_opField_injective r hr i.row i.row_mem ?_
  rw [← OpcodeRow.opField_of_matchesWord hr hw, OpcodeRow.opField_of_matchesWord i.row_mem i.row_matchesWord]

/-- Settles O5: N1 to N14. -/
theorem specWordsDecodeAsWritten : Obligations.SpecWordsDecodeAsWritten := by
  unfold Obligations.SpecWordsDecodeAsWritten
  decide

/-- The bytes of a word, byte 0 first, make the word again (R33). -/
theorem wordOfBytes_extractLsb' (w : CmdWord) :
    wordOfBytes (w.extractLsb' 0 8) (w.extractLsb' 8 8) (w.extractLsb' 16 8) (w.extractLsb' 24 8) (w.extractLsb' 32 8)
      (w.extractLsb' 40 8) (w.extractLsb' 48 8) (w.extractLsb' 56 8) = w := by
  have hpair (i m n j : Nat) (h : j = i + n) : w.extractLsb' j m ++ w.extractLsb' i n = w.extractLsb' i (m + n) :=
    BitVec.extractLsb'_append_extractLsb'_eq_extractLsb' h
  rw [wordOfBytes, hpair 0 8 8 8 rfl, hpair 0 8 16 16 rfl, hpair 0 8 24 24 rfl, hpair 0 8 32 32 rfl, hpair 0 8 40 40 rfl,
    hpair 0 8 48 48 rfl, hpair 0 8 56 56 rfl]
  exact BitVec.extractLsb'_eq_self

/-- Settles O6: eight bytes are taken, and they make the word again. -/
theorem wordBytesAreLittleEndian : Obligations.WordBytesAreLittleEndian := by
  intro w rest
  have hbytes : ((List.range 8).map (fun k => w.extractLsb' (8 * k) 8) ++ rest)
      = w.extractLsb' 0 8 :: w.extractLsb' 8 8 :: w.extractLsb' 16 8 :: w.extractLsb' 24 8 :: w.extractLsb' 32 8
        :: w.extractLsb' 40 8 :: w.extractLsb' 48 8 :: w.extractLsb' 56 8 :: rest := rfl
  rw [hbytes, decodeBytes, wordOfBytes_extractLsb']

/-! ### What 32 bits are worth as a float32 (log 20) -/

theorem Sample.magnitude_toNat (v : Sample) : v.magnitude.toNat = v.toNat % 2 ^ 31 := by
  rw [Sample.magnitude, BitVec.toNat_and]
  exact Nat.and_two_pow_sub_one_eq_mod v.toNat 31

/-- Below its sign a float32 is its exponent and fraction. -/
theorem Sample.magnitude_eq (v : Sample) : v.magnitude.toNat = v.exponent * 2 ^ 23 + v.fraction := by
  rw [Sample.magnitude_toNat, Sample.exponent, Sample.fraction]
  omega

theorem Sample.fraction_lt (v : Sample) : v.fraction < 2 ^ 23 := Nat.mod_lt _ (by decide)

/-- A float32 whose magnitude is at most that of 1.0 has an exponent of at most 127, which only 1.0 itself has. -/
theorem Sample.fields_of_magnitude_le {v : Sample} (h : v.magnitude ≤ 0x3f800000#32) :
    v.exponent ≤ 126 ∨ v.exponent = 127 ∧ v.fraction = 0 := by
  have hle : v.exponent * 2 ^ 23 + v.fraction ≤ 127 * 2 ^ 23 := v.magnitude_eq ▸ BitVec.le_def.mp h
  omega

theorem Sample.isFinite_of_magnitude_le {v : Sample} (h : v.magnitude ≤ 0x3f800000#32) : v.IsFinite := by
  have := Sample.fields_of_magnitude_le h
  unfold Sample.IsFinite
  omega

theorem Sample.absValue_le_one {v : Sample} (h : v.magnitude ≤ 0x3f800000#32) : v.absValue ≤ 1 := by
  have hf := v.fraction_lt
  have hbound : (2 ^ 23 + v.fraction) * 2 ^ v.exponent ≤ 2 ^ 150 := by
    rcases Sample.fields_of_magnitude_le h with he | ⟨he, hz⟩
    · calc (2 ^ 23 + v.fraction) * 2 ^ v.exponent ≤ 2 ^ 24 * 2 ^ 126 :=
            Nat.mul_le_mul (by omega) (Nat.pow_le_pow_right (by decide) he)
        _ = 2 ^ 150 := by norm_num
    · rw [he, hz]
      norm_num
  unfold Sample.absValue
  split_ifs
  · rw [div_le_one (by positivity)]
    exact_mod_cast (by omega : v.fraction ≤ 2 ^ 149)
  · rw [div_le_one (by positivity)]
    exact_mod_cast hbound

theorem Sample.absValue_eq_zero {v : Sample} (h : v.magnitude = 0#32) : v.absValue = 0 := by
  have hz : v.exponent * 2 ^ 23 + v.fraction = 0 := v.magnitude_eq ▸ congrArg BitVec.toNat h
  have he : v.exponent = 0 := by omega
  have hf : v.fraction = 0 := by omega
  simp [Sample.absValue, he, hf]

end Sys2Proof

namespace Sys2Proof.Machine

/-! ### Rounding, durations and the ramp (00_scope.md R9, 40_engine_config.md R53) -/

/-- A tie goes to the even one of the two neighbours. -/
theorem roundTies_toEven_of_tie {n d : Nat} (h : 2 * (n % d) = d) : roundTies .toEven n d = n / d + n / d % 2 := by
  rw [roundTies, if_neg (by omega), if_neg (by omega)]

/-- A tie goes to the larger one of the two neighbours. -/
theorem roundTies_awayFromZero_of_tie {n d : Nat} (h : 2 * (n % d) = d) : roundTies .awayFromZero n d = n / d + 1 := by
  rw [roundTies, if_neg (by omega), if_neg (by omega)]

/-- Settles O8: at a tie the floor's parity, or the floor's successor, decides. -/
theorem roundingIsToNearestWithTies : Obligations.RoundingIsToNearestWithTies := by
  refine fun ties n d hd => ⟨abs_roundTies_sub_le ties n hd, fun htie hties => ?_, fun htie hties => ?_⟩
  · rw [hties, roundTies_toEven_of_tie htie]
    omega
  · rw [hties, roundTies_awayFromZero_of_tie htie, div_lt_iff₀ (by exact_mod_cast hd)]
    exact_mod_cast Nat.mul_comm d _ ▸ Nat.lt_mul_div_succ n hd

/-- At SR = 48000 a duration of `num / den` ms is 48 times that many samples, rounded down (R62). -/
theorem toSamples_48000 (num den : Nat) : toSamples 48000 ⟨num, den⟩ = 48 * num / den := by
  rw [toSamples, show num * 48000 = 48 * num * 1000 by ring]
  exact Nat.mul_div_mul_right (48 * num) den (by decide)

/-- Settles O12: 48 samples a millisecond. -/
theorem elementLengthsAtFortyEightKilohertz : Obligations.ElementLengthsAtFortyEightKilohertz :=
  fun w _ _ => ⟨toSamples_48000 1200 w, toSamples_48000 (3 * 1200) w, toSamples_48000 1200 w⟩

/-- A configured cycle has at least 4 samples. -/
theorem Registers.Configured.four_le_spc {c : Config} {r : Registers} (hc : c.Admitted) (h : r.Configured c) : 4 ≤ r.spc := by
  obtain ⟨⟨hlo, hhi⟩, -⟩ := hc
  rw [h.spcOfFreq]
  exact (samplesPerCycle_bounds c.roundTies hlo hhi h.freqLegal.1 h.freqLegal.2).1

theorem Registers.Configured.rampCycles_pos {c : Config} {r : Registers} (h : r.Configured c) : 0 < r.rampCycles :=
  h.cyclesOfRamp ▸ rampCyclesOf_pos c.roundTies c.sr r.spc r.wpm

/-- Settles O10: E.L is E.RAMP_CYCLES cycles, and that is at least one. -/
theorem rampsAreWholeCycles : Obligations.RampsAreWholeCycles := by
  intro s hs
  have hl := hs.configured.lengthOfRamp
  refine ⟨?_, hs.configured.four_le_spc hs.admitted, ?_⟩
  · rw [hl, Nat.mul_mod_left]
  · exact hl ▸ Nat.le_mul_of_pos_left _ hs.configured.rampCycles_pos

/-! ### The patches' values (40_engine_config.md R54, as binary32) -/

/-- At gain 0 only the sign bit of PATCH_VALUE is free (R54 (c)). -/
theorem magnitude_patchValue_zero (kind : PatchKind) (n spc l : Nat) : (patchValue kind n spc l 0).magnitude = 0#32 := by
  rw [patchValue, if_pos rfl, Sample.magnitude, BitVec.and_assoc]
  exact BitVec.and_zero

/-- PATCH_VALUE is at most 1 in magnitude (R54 (b)). -/
theorem magnitude_patchValue_le (kind : PatchKind) (n spc l : Nat) (g : Rat) :
    (patchValue kind n spc l g).magnitude ≤ 0x3f800000#32 := by
  by_cases hg : g = 0
  · rw [hg, magnitude_patchValue_zero]
    decide
  · rw [patchValue, if_neg hg]
    split_ifs with hle
    · exact hle
    · decide

/-- Entry `n` of a patch as regeneration writes it (R54, R56). -/
theorem getElem?_patch {kind : PatchKind} {spc l n : Nat} (g : Rat) (h : n < patchLength kind spc l) :
    (patch kind spc l g)[n]? = some (patchValue kind n spc l g) := by
  simp [patch, h]

/-- Settles O9: the values are legal by their magnitude, and configured patches hold nothing else. -/
theorem patchesHoldLegalPatchValues : Obligations.PatchesHoldLegalPatchValues := by
  refine ⟨fun kind n spc l g => ?_, fun s hs => ?_⟩
  · have hle := magnitude_patchValue_le kind n spc l g
    refine ⟨Sample.isFinite_of_magnitude_le hle, Sample.absValue_le_one hle, fun hg => ?_⟩
    exact Sample.absValue_eq_zero (hg ▸ magnitude_patchValue_zero kind n spc l)
  · rw [hs.configured.cyclePatch, hs.configured.rampUpPatch, hs.configured.rampDownPatch]
    exact ⟨length_patch .., length_patch .., length_patch .., fun n hn => getElem?_patch _ hn, fun n hn => getElem?_patch _ hn,
      fun n hn => getElem?_patch _ hn⟩

/-! ### The configuration commands in any order (R137) -/

/-- SET_FREQUENCY's effect on the registers, an `hz` outside its range being ignored (R58). -/
def Registers.tune (c : Config) (hz : Operand) (r : Registers) : Registers :=
  if 100 ≤ hz.toInt ∧ hz.toInt ≤ 2000 then r.setFrequency c hz.toInt.toNat else r

/-- The state after a configuration command; after any other operation, the state itself. -/
def State.configure (i : Instr) (s : State) : State :=
  match i with
  | .setFrequency hz => { s with reg := s.reg.tune s.cfg hz }
  | .setVolume pct => { s with reg := s.reg.setVolume (clamp pct.toInt 0 100).toNat }
  | .setWpm wpm => { s with reg := s.reg.setWpm s.cfg (clamp wpm.toInt 5 60).toNat }
  | .setModeB b => s.setKey { s.key with modeB := b }
  | _ => s

theorem exec_of_configures {i : Instr} (h : configures i = true) (s : State) : exec i s = .next (s.configure i) := by
  cases i with
  | setFrequency hz =>
    by_cases hhz : 100 ≤ hz.toInt ∧ hz.toInt ≤ 2000
    · rw [exec_setFrequency_accepted s hhz, State.configure, Registers.tune, if_pos hhz]
    · rw [exec_setFrequency_ignored s hhz, State.configure, Registers.tune, if_neg hhz]
  | setVolume pct => rfl
  | setWpm wpm => rfl
  | setModeB b => rfl
  | _ => cases h

/-- The patches are made anew by each command, from registers that the other leaves. -/
theorem Registers.tune_setVolume (c : Config) (hz : Operand) (r : Registers) (vol : Nat) :
    (r.setVolume vol).tune c hz = (r.tune c hz).setVolume vol := by
  unfold Registers.tune
  split <;> rfl

/-- The ramp is computed anew by each command, from the frequency and the speed last set. -/
theorem Registers.tune_setWpm (c : Config) (hz : Operand) (r : Registers) (wpm : Nat) :
    (r.setWpm c wpm).tune c hz = (r.tune c hz).setWpm c wpm := by
  unfold Registers.tune
  split <;> rfl

theorem State.commute_configure_frequency_volume (hz pct : Operand) :
    Function.Commute (State.configure (.setFrequency hz)) (State.configure (.setVolume pct)) :=
  fun s => by simp only [State.configure, Registers.tune_setVolume]

theorem State.commute_configure_frequency_wpm (hz wpm : Operand) :
    Function.Commute (State.configure (.setFrequency hz)) (State.configure (.setWpm wpm)) :=
  fun s => by simp only [State.configure, Registers.tune_setWpm]

theorem State.commute_configure_volume_wpm (pct wpm : Operand) :
    Function.Commute (State.configure (.setVolume pct)) (State.configure (.setWpm wpm)) :=
  fun _ => rfl

/-- SET_MODE_B writes the keyer, which the other commands neither read nor write. -/
theorem State.commute_configure_mode {i : Instr} (b : Bool) (h : ∀ b', i ≠ .setModeB b') :
    Function.Commute (State.configure i) (State.configure (.setModeB b)) := by
  intro s
  cases i with
  | setModeB b' => exact absurd rfl (h b')
  | _ => rfl

/-- Settles O16: two different commands among the four commute. -/
theorem configurationCommandsCommute : Obligations.ConfigurationCommandsCommute := by
  intro i j s hi hj hfreq hvol hwpm hmode
  have hcomm : Function.Commute (State.configure i) (State.configure j) := by
    cases i with
    | setFrequency hz =>
      cases j with
      | setFrequency hz' => exact absurd rfl (hfreq hz hz' rfl)
      | setVolume pct => exact State.commute_configure_frequency_volume hz pct
      | setWpm wpm => exact State.commute_configure_frequency_wpm hz wpm
      | setModeB b => exact State.commute_configure_mode b (by simp)
      | _ => cases hj
    | setVolume pct =>
      cases j with
      | setFrequency hz => exact (State.commute_configure_frequency_volume hz pct).symm
      | setVolume pct' => exact absurd rfl (hvol pct pct' rfl)
      | setWpm wpm => exact State.commute_configure_volume_wpm pct wpm
      | setModeB b => exact State.commute_configure_mode b (by simp)
      | _ => cases hj
    | setWpm wpm =>
      cases j with
      | setFrequency hz => exact (State.commute_configure_frequency_wpm hz wpm).symm
      | setVolume pct => exact (State.commute_configure_volume_wpm pct wpm).symm
      | setWpm wpm' => exact absurd rfl (hwpm wpm wpm' rfl)
      | setModeB b => exact State.commute_configure_mode b (by simp)
      | _ => cases hj
    | setModeB b => exact (State.commute_configure_mode b (hmode b · rfl)).symm
    | _ => cases hi
  refine ⟨_, _, _, exec_of_configures hi s, exec_of_configures hj _, exec_of_configures hj s, ?_⟩
  rw [exec_of_configures hi, hcomm s]

/-! ### Settling and emitting (42_engine_read.md R79 to R84, R93) -/

/-- Settles O24: the one test READ makes. -/
theorem readStopsOnlyWithoutSlots : Obligations.ReadStopsOnlyWithoutSlots :=
  fun _ _ => ⟨fun hshort => if_pos hshort, fun hb => ⟨_, exec_read hb, rfl⟩⟩

/-- A patch entry that is there. -/
theorem patchEntry_of_getElem? {kind : PatchKind} {entries : List Sample} {n : Nat} {v : Sample} (h : entries[n]? = some v) :
    patchEntry kind entries n = v := by
  simp [patchEntry, List.getD_eq_getElem?_getD, h]

/-- Settles O25: a turn at a ready state is `emit` alone. -/
theorem emitAdvancesThePhase : Obligations.EmitAdvancesThePhase := by
  intro s i hready _
  rw [State.readSlot_of_ready hready]
  refine ⟨fun hs => ?_, fun hs => ?_, fun v hs hv => ?_, fun v hs hv => ?_, fun v hs hv => ?_⟩
  · simp [State.emitInto, Playback.currentSample, Playback.advance, hs, memWrite, silenceSample]
  · simp [State.emitInto, Playback.currentSample, Playback.advance, hs, memWrite, silenceSample]
  all_goals
    simp [State.emitInto, Playback.currentSample, Playback.advance, hs, memWrite, patchEntry_of_getElem? hv]

/-- Passes add up (R81). -/
theorem State.settleWithin_add (a b : Nat) (s : State) : s.settleWithin (a + b) = (s.settleWithin a).settleWithin b := by
  induction a generalizing s with
  | zero => rw [Nat.zero_add, State.settleWithin]
  | succ a ih =>
    rw [Nat.succ_add, State.settleWithin, State.settleWithin]
    cases ha : s.play.settleAction s.reg s.cfg.lead with
    | none => exact (State.settleWithin_of_ready b ha).symm
    | some act => exact ih (s.perform act)

/-- Settles O26: eight passes leave a state ready to emit, in which further ones do nothing. -/
theorem settleNeedsAtMostEightPasses : Obligations.SettleNeedsAtMostEightPasses := by
  intro s n hne hn
  have hready := s.settle_ready hne
  have hsame : s.settleWithin n = s.settle := by
    obtain ⟨more, rfl⟩ := Nat.exists_eq_add_of_le hn
    rw [State.settleWithin_add]
    exact State.settleWithin_of_ready more (s := s.settle) (by simpa using hready)
  exact ⟨hsame, hsame ▸ hready⟩

/-- An orderly state that is ready to emit is a settle point (R24). -/
theorem Playback.Orderly.settled {r : Registers} {lead : Nat} {p : Playback} (h : p.Orderly lead)
    (hready : p.settleAction r lead = none) : p.Settled r lead := by
  obtain ⟨hcomplete, hphase⟩ := Playback.settleAction_none hready
  have hstart : p.startPending = false := by
    by_contra hp
    obtain ⟨hs, -⟩ := h.startInRampUp (by simpa using hp)
    simp only [hs] at hphase
    exact hp hphase.1
  have hidle : p.idlePending = false := by
    by_contra hp
    have hs := h.idleInSilent (by simpa using hp)
    simp only [hs] at hphase
    exact hp hphase
  refine ⟨fun hs => ?_, fun hs => ?_, fun hs => h.posWithoutTone ?_, fun hs => ?_, ⟨hstart, hcomplete, hidle⟩, h.silentQueues,
    fun hs => ⟨h.firedWithinLead hs, fun hle => ?_⟩, fun hs => ?_⟩
  · rcases hs with hs | hs <;> simp only [hs] at hphase
    · exact hphase.2
    · exact hphase
  · simp only [hs] at hphase
    exact hphase.2
  · rcases hs with hs | hs <;> rw [hs] <;> rfl
  · simp only [hs] at hphase
    cases hi : p.indefinite
    · exact .inr (Nat.one_le_iff_ne_zero.mpr fun hz => hphase.1 ⟨hi, hz⟩)
    · exact .inl rfl
  · simp only [hs] at hphase
    by_contra hb
    exact hphase.1 ⟨by simpa using hb, hle⟩
  · simp only [hs] at hphase
    exact Nat.pos_of_ne_zero hphase.2

/-- A consistent state has no empty patch. -/
theorem State.Consistent.nonEmpty {s : State} (h : s.Consistent) : s.reg.NonEmpty :=
  Registers.nonEmpty_of_configured h.admitted h.configured

/-- Settles O28: READ's loop and settle keep the playback state orderly, and settle leaves it ready to emit. -/
theorem settlePointsMeetTheInvariants : Obligations.SettlePointsMeetTheInvariants := by
  intro s k hs
  have horderly := State.orderly_readSlots k 0 s hs.nonEmpty hs.orderly
  have hready := (State.readSlots k 0 s).settle_ready (by simpa using hs.nonEmpty)
  have hsettled := (State.readSlots k 0 s).orderly_settle (by simpa using horderly)
  simp only [State.readSlots_fields] at hready hsettled
  exact hsettled.settled hready

/-! ### A quiescent state (R135) -/

theorem State.Quiescent.settleAction {s : State} (h : s.Quiescent) : s.play.settleAction s.reg s.cfg.lead = none := by
  obtain ⟨-, -, hcomplete, hidle⟩ := h.nothingPending
  simp [Playback.settleAction_of_silent hcomplete h.silent, hidle]

/-- Turns at a silent state with nothing to settle emit as many silent samples, and nothing else. -/
theorem State.readSlots_of_silent {s : State} (hs : s.play.engState = .silent)
    (hready : s.play.settleAction s.reg s.cfg.lead = none) (n i : Nat) :
    State.readSlots n i s
      = s.withOutput (State.readSlots n i s).buf (s.samples ++ List.replicate n silenceSample) := by
  have hadvance : s.play.advance = s.play := by simp [Playback.advance, hs]
  have hsample : s.play.currentSample s.reg = silenceSample := by simp [Playback.currentSample, hs]
  induction n with
  | zero => simp [State.readSlots, State.withOutput]
  | succ n ih =>
    rw [State.readSlots_succ, State.readSlot_of_ready (by rw [ih]; exact hready), ih, State.emitInto_eq]
    simp only [State.withOutput_fields, hadvance, hsample, List.append_assoc, ← List.replicate_succ']
    rfl

/-- Settles O30: a quiescent state is silent with nothing to settle, and stays so. -/
theorem quiescentReadIsSilent : Obligations.QuiescentReadIsSilent := by
  refine ⟨fun c t0 => ⟨rfl, rfl, rfl, ⟨rfl, rfl, rfl, rfl⟩, rfl, rfl⟩, fun count s hq hb => ?_⟩
  have hturns := State.readSlots_of_silent hq.silent hq.settleAction
  have hsettled (n : Nat) : (State.readSlots n 0 s).settle = State.readSlots n 0 s :=
    State.settle_of_ready (by rw [hturns]; exact hq.settleAction)
  have hread : s.readSamples count.toNat = State.readSlots count.toNat 0 s := hsettled _
  refine ⟨_, exec_read hb, ?_, fun k hk => ?_, fun k hk => ?_⟩
  · rw [hread, hturns]
    rfl
  · have hslot := State.readSlots_slot_inside count.toNat 0 s hk (by omega)
    rw [hsettled, hturns k] at hslot
    simpa [State.slot, hread, Playback.currentSample, hq.silent, silenceSample] using hslot
  · rw [hread]
    exact State.readSlots_slot_outside _ _ s (.inr (by omega))

/-! ### Induction over settle and over READ's loop -/

/-- What every pass of settle keeps, settle keeps. -/
theorem State.settleWithin_induction {P : State → Prop}
    (hperform : ∀ u a, P u → u.play.settleAction u.reg u.cfg.lead = some a → P (u.perform a)) (fuel : Nat) {s : State}
    (h : P s) : P (s.settleWithin fuel) := by
  induction fuel generalizing s with
  | zero => exact h
  | succ fuel ih =>
    unfold State.settleWithin
    split
    · exact h
    · next a ha => exact ih (hperform s a h ha)

theorem State.settle_induction {P : State → Prop}
    (hperform : ∀ u a, P u → u.play.settleAction u.reg u.cfg.lead = some a → P (u.perform a)) {s : State} (h : P s) :
    P s.settle :=
  State.settleWithin_induction hperform settlePasses h

/-- What every pass of settle keeps, and every emission from a state that settle has left, a READ's loop keeps. -/
theorem State.readSlots_induction {P : State → Prop}
    (hperform : ∀ u a, P u → u.play.settleAction u.reg u.cfg.lead = some a → P (u.perform a))
    (hemit : ∀ u i, P u → (u.reg.NonEmpty → u.play.settleAction u.reg u.cfg.lead = none) → P (u.emitInto i))
    (n i : Nat) {s : State} (h : P s) : P (State.readSlots n i s) := by
  induction n generalizing i s with
  | zero => exact h
  | succ n ih =>
    refine ih (i + 1) (hemit s.settle i (State.settle_induction hperform h) fun hne => ?_)
    simpa using s.settle_ready (by simpa using hne)

/-- And so does READ. -/
theorem State.readSamples_induction {P : State → Prop}
    (hperform : ∀ u a, P u → u.play.settleAction u.reg u.cfg.lead = some a → P (u.perform a))
    (hemit : ∀ u i, P u → (u.reg.NonEmpty → u.play.settleAction u.reg u.cfg.lead = none) → P (u.emitInto i))
    (n : Nat) {s : State} (h : P s) : P (s.readSamples n) :=
  State.settle_induction hperform (State.readSlots_induction hperform hemit n 0 h)

/-! ### Which action delivers which event (R81 to R85) -/

section
variable {p : Playback} {a : SettleAction}

theorem Playback.delivers_toneStart_iff : p.delivers a = some .toneStart ↔ a = .deliverStart := by
  cases a <;> simp [Playback.delivers]

theorem Playback.delivers_toneComplete_iff :
    p.delivers a = some .toneComplete ↔ a = .deliverAbandoned ∨ a = .toneEnd := by
  cases a <;> simp [Playback.delivers]

theorem Playback.delivers_beforeSilenceEnd_iff : p.delivers a = some .beforeSilenceEnd ↔ a = .deliverBeforeEnd := by
  cases a <;> simp [Playback.delivers]

theorem Playback.delivers_silenceComplete_iff :
    p.delivers a = some .silenceComplete ↔ a = .silenceEnd ∧ p.qTone = none ∧ p.qSil = none := by
  cases a <;> simp [Playback.delivers]

theorem Playback.delivers_becomeIdle_iff : p.delivers a = some .becomeIdle ↔ a = .deliverIdle := by
  cases a <;> simp [Playback.delivers]

end

/-- During a silence a requested tone is queued, so OnBeforeSilenceEnd leaves the silence as it is (R68, R108). -/
theorem State.perform_deliverBeforeEnd_play {s : State} (hs : s.play.engState = .timedSilence) :
    (s.perform .deliverBeforeEnd).play = s.play.ackBeforeEnd
      ∨ ∃ e, (s.perform .deliverBeforeEnd).play = { s.play.ackBeforeEnd with qTone := some (s.elementTone e) } := by
  refine (s.perform_play .deliverBeforeEnd).imp_right ?_
  rintro ⟨e, he⟩
  exact ⟨e, he.trans (Playback.toneRequest_of_timedSilence _ _ hs)⟩

/-- Settles O34: each event has its action, and each action its check. -/
theorem eventsAreDeliveredWhenOwed : Obligations.EventsAreDeliveredWhenOwed := by
  intro s a h ha
  refine ⟨fun hc => ?_, fun hd => ?_, fun hd hc => ?_, fun hd => ?_, fun hd => ?_, fun hd => ?_⟩
  · rw [Playback.settleAction_of_completePending hc] at ha
    cases ha
    rfl
  · cases Playback.delivers_toneStart_iff.mp hd
    obtain ⟨-, hs, hp⟩ := Playback.settleAction_some ha
    exact ⟨hs, (h.startInRampUp hp).2, hp⟩
  · rcases Playback.delivers_toneComplete_iff.mp hd with rfl | rfl
    · have hpending : s.play.completePending = true := Playback.settleAction_some ha
      simp [hc] at hpending
    · obtain ⟨-, hs, hl⟩ := Playback.settleAction_some ha
      exact ⟨hs, hl⟩
  · cases Playback.delivers_beforeSilenceEnd_iff.mp hd
    obtain ⟨-, hs, hb, hl⟩ := Playback.settleAction_some ha
    refine ⟨hs, hl, hb, ?_⟩
    rcases State.perform_deliverBeforeEnd_play hs with he | ⟨e, he⟩ <;> rw [he] <;> rfl
  · obtain ⟨rfl, ht, hq⟩ := Playback.delivers_silenceComplete_iff.mp hd
    obtain ⟨-, hs, -, hz⟩ := Playback.settleAction_some ha
    exact ⟨hs, hz, ht, hq⟩
  · cases Playback.delivers_becomeIdle_iff.mp hd
    obtain ⟨-, hs, hi⟩ := Playback.settleAction_some ha
    exact ⟨hs, hi, h.silentQueues hs⟩

/-! ### A timed tone's samples, counted down (R76) -/

/-- The samples a timed tone still has to emit: what is left of its phase, and the phases that follow. -/
def Playback.toneLeft (r : Registers) (p : Playback) : Nat :=
  match p.engState with
  | .silent => 0
  | .rampUp => r.l - p.pos + r.spc * p.sustainLeft + r.l
  | .sustain => r.spc * p.sustainLeft - p.pos + r.l
  | .rampDown => r.l - p.pos
  | .timedSilence => 0

/-- A timed tone with `n` samples to emit, its index within its phase or at the phase's end. -/
structure Playback.TimedTone (r : Registers) (n : Nat) (p : Playback) : Prop where
  tone : p.engState.isTone = true
  isTimed : p.indefinite = false
  posInRamp : p.engState ≠ .sustain → p.pos ≤ r.l
  posInCycle : p.engState = .sustain → p.pos ≤ r.spc ∧ p.pos ≤ r.spc * p.sustainLeft
  left : p.toneLeft r = n

theorem Playback.BegunTone.timedTone {r : Registers} {n : Nat} {p : Playback} (h : p.BegunTone r n) :
    p.TimedTone r (2 * r.l + r.spc * ((n - 2 * r.l) / r.spc)) := by
  obtain ⟨hs, hpos, htimed, hcycles⟩ := h
  refine ⟨by rw [hs]; rfl, htimed, fun _ => by omega, fun h => by simp [hs] at h, ?_⟩
  simp only [Playback.toneLeft, hs, hpos, hcycles]
  omega

/-- A pass at a timed tone with samples to emit delivers an event or goes on to the next phase: none is lost. -/
theorem State.timedTone_perform {u : State} {a : SettleAction} {n : Nat} (hn : 0 < n) (h : u.play.TimedTone u.reg n)
    (ha : u.play.settleAction u.reg u.cfg.lead = some a) : (u.perform a).play.TimedTone u.reg n := by
  have hact := Playback.settleAction_some ha
  have hplay := u.perform_play a
  have hframe {a : SettleAction} (hdel : a.IsToneDelivery) : (u.perform a).play.TimedTone u.reg n := by
    obtain ⟨htone, htimed, hramp, hcycle, hleft⟩ := h
    obtain ⟨hst, hpos, hind, hsus⟩ := u.perform_delivery_phase htone hdel
    constructor <;> simp_all [Playback.toneLeft]
  obtain ⟨htone, htimed, hramp, hcycle, hleft⟩ := h
  cases a
  case deliverAbandoned => exact hframe (.inl rfl)
  case deliverStart => exact hframe (.inr rfl)
  case rampUpDone =>
    obtain ⟨-, hs, -, hl⟩ := hact
    simp only [Playback.toneLeft, hs] at hleft
    rw [hplay]
    by_cases hz : 0 < u.play.sustainLeft
    · constructor <;> simp_all [Playback.afterRampUp, Playback.toneLeft, EngState.isTone]
    · constructor <;> simp_all [Playback.afterRampUp, Playback.toneLeft, EngState.isTone]
  case sustainDone =>
    obtain ⟨-, hs, -, hz⟩ := hact
    rw [hplay]
    constructor <;> simp_all [Playback.endSustain, Playback.toneLeft, EngState.isTone]
  case cycleDone =>
    obtain ⟨-, hs, hgoes, hpos⟩ := hact
    obtain ⟨m, hm⟩ : ∃ m, u.play.sustainLeft = m + 1 :=
      Nat.exists_eq_succ_of_ne_zero fun hz => hgoes ⟨htimed, hz⟩
    simp only [Playback.toneLeft, hs, hm, Nat.mul_succ] at hleft
    obtain ⟨hle, -⟩ := hcycle hs
    rw [hplay]
    constructor <;> simp_all [Playback.nextCycle, Playback.toneLeft, EngState.isTone]
    omega
  case toneEnd =>
    obtain ⟨-, hs, hl⟩ := hact
    simp only [Playback.toneLeft, hs] at hleft
    omega
  all_goals simp [hact, EngState.isTone] at htone

/-- An emission takes one sample of a timed tone. -/
theorem Playback.TimedTone.advance {r : Registers} {lead n : Nat} {p : Playback} (h : p.TimedTone r (n + 1))
    (hready : p.settleAction r lead = none) : p.advance.TimedTone r n := by
  obtain ⟨-, hphase⟩ := Playback.settleAction_none hready
  obtain ⟨htone, htimed, hramp, hcycle, hleft⟩ := h
  cases hs : p.engState <;> simp only [hs] at hphase
  case silent => simp [hs, EngState.isTone] at htone
  case timedSilence => simp [hs, EngState.isTone] at htone
  case sustain =>
    obtain ⟨hgoes, hpos⟩ := hphase
    obtain ⟨m, hm⟩ : ∃ m, p.sustainLeft = m + 1 := Nat.exists_eq_succ_of_ne_zero fun hz => hgoes ⟨htimed, hz⟩
    simp only [Playback.toneLeft, hs, hm, Nat.mul_succ] at hleft
    constructor <;> simp_all [Playback.advance, Playback.toneLeft, EngState.isTone, Nat.mul_succ]
    · omega
    · omega
  all_goals
    simp only [Playback.toneLeft, hs] at hleft
    constructor <;> simp_all [Playback.advance, Playback.toneLeft, EngState.isTone]
    all_goals omega

/-- A timed tone with nothing left to emit is at the end of its ramp-down. -/
theorem Playback.TimedTone.exhausted {r : Registers} (hne : r.NonEmpty) {p : Playback} (h : p.TimedTone r 0) :
    p.engState = .rampDown ∧ p.pos = r.l := by
  obtain ⟨hspc, hl⟩ := hne
  obtain ⟨htone, -, hramp, -, hleft⟩ := h
  cases hs : p.engState <;> simp only [Playback.toneLeft, hs] at hleft
  case silent => simp [hs, EngState.isTone] at htone
  case timedSilence => simp [hs, EngState.isTone] at htone
  case rampDown =>
    have := hramp (by simp [hs])
    exact ⟨rfl, by omega⟩
  all_goals omega

theorem State.timedTone_settle {u : State} {n : Nat} (hn : 0 < n) (h : u.play.TimedTone u.reg n) :
    u.settle.play.TimedTone u.settle.reg n :=
  State.settle_induction (P := fun v => v.play.TimedTone v.reg n)
    (fun v _ hv ha => by simpa using State.timedTone_perform hn hv ha) h

/-- After `k` turns a timed tone has `k` samples fewer to emit. -/
theorem State.timedTone_readSlots {s : State} (hne : s.reg.NonEmpty) {n : Nat} (h : s.play.TimedTone s.reg n) {k : Nat}
    (hk : k ≤ n) : (State.readSlots k 0 s).play.TimedTone s.reg (n - k) := by
  induction k with
  | zero => exact h
  | succ k ih =>
    have hbefore := State.timedTone_settle (u := State.readSlots k 0 s) (n := n - (k + 1) + 1) (by omega)
      (by simpa [show n - (k + 1) + 1 = n - k by omega] using ih (by omega))
    have hready := (State.readSlots k 0 s).settle_ready (by simpa using hne)
    rw [State.readSlots_succ, State.readSlot_play]
    simp only [State.settle_fields, State.readSlots_fields] at hbefore hready
    exact hbefore.advance hready

/-- The length of a timed tone: both ramps, and the whole cycles that the rest of the request holds (R63, R76). -/
theorem timedTone_length_bounds {r : Registers} (hspc : 0 < r.spc) (n : Nat) :
    (n < 2 * r.l + r.spc → 2 * r.l + r.spc * ((n - 2 * r.l) / r.spc) = 2 * r.l)
    ∧ (2 * r.l ≤ n → n < 2 * r.l + r.spc * ((n - 2 * r.l) / r.spc) + r.spc
        ∧ 2 * r.l + r.spc * ((n - 2 * r.l) / r.spc) ≤ n) := by
  have hmod := Nat.mod_lt (n - 2 * r.l) hspc
  have hdiv := Nat.div_add_mod (n - 2 * r.l) r.spc
  refine ⟨fun h => ?_, fun h => by omega⟩
  rw [Nat.div_eq_of_lt (by omega), Nat.mul_zero, Nat.add_zero]

theorem Playback.begunTone_beginTone (r : Registers) (p : Playback) (n : Nat) : (p.beginTone r (.timed n)).BegunTone r n :=
  ⟨rfl, rfl, rfl, rfl⟩

/-- Settles O31: the count left falls by one with each sample, from the begun tone's length to 0. -/
theorem timedToneHasItsExactLength : Obligations.TimedToneHasItsExactLength := by
  refine ⟨fun n s hs hbegun => ?_, fun us s t hs h => ?_, fun d h s t hidle hs hp hx => ?_, fun n s hq => ?_,
    fun n s hq hsil hkey => ?_⟩
  · intro len
    have hcount {k : Nat} (hk : k ≤ len) := State.timedTone_readSlots hs.nonEmpty hbegun.timedTone hk
    have hend := hcount le_rfl
    rw [Nat.sub_self] at hend
    obtain ⟨hstate, hpos⟩ := hend.exhausted hs.nonEmpty
    refine ⟨fun k hk => ?_, hstate, hpos, timedTone_length_bounds hs.nonEmpty.1 n⟩
    exact (State.timedTone_settle (Nat.sub_pos_of_lt hk) (by simpa using hcount hk.le)).tone
  · rw [exec_startTone, Playback.toneRequest_of_unheard _ _ hs] at h
    cases h
    exact Playback.begunTone_beginTone ..
  · obtain ⟨-, hstarts⟩ := paddleInIdleStartsAnElement d h s hidle
    rw [hstarts hp, Playback.toneRequest_of_unheard _ _ (.inl hs)] at hx
    cases hx
    exact Playback.begunTone_beginTone ..
  · rw [s.perform_play .silenceEnd, Playback.leaveSilence_startNext, hq]
    exact Playback.begunTone_beginTone ..
  · have hsilent : s.play.enterSilent.engState = .silent := rfl
    rw [State.perform_toneEnd_of_no_element hkey, Playback.startNext_of_qTone s.reg hsilent hsil hq]
    exact Playback.begunTone_beginTone ..

/-! ### The gap between two elements (R94) -/

/-- Turns begin by settling, so states that settle alike play alike. -/
theorem State.readSlots_settle_congr {s s' : State} (h : s.settle = s'.settle) (n i : Nat) :
    (State.readSlots n i s).settle = (State.readSlots n i s').settle := by
  cases n with
  | zero => exact h
  | succ n => rw [State.readSlots, State.readSlots, State.readSlot, h, State.readSlot]

/-- The keyer's gap with `left` samples to emit: no silence is queued behind it, and no event of an earlier tone is owed. -/
structure Playback.InGap (left : Nat) (p : Playback) : Prop where
  silence : p.engState = .timedSilence
  countdown : p.silenceLeft = left
  noSilence : p.qSil = none
  noComplete : p.completePending = false

/-- What a gap leads to: the first sample of a tone, or Silent. -/
def Playback.AfterGap (p : Playback) : Prop :=
  p.completePending = false ∧ (p.engState = .rampUp ∧ p.pos = 0 ∨ p.engState = .silent)

/-- A pass in a gap delivers OnBeforeSilenceEnd, and ends the gap only when no sample is left. -/
theorem State.inGap_perform {u : State} {a : SettleAction} {left : Nat} (h : u.play.InGap left)
    (ha : u.play.settleAction u.reg u.cfg.lead = some a) :
    (u.perform a).play.InGap left ∨ left = 0 ∧ (u.perform a).play.AfterGap := by
  obtain ⟨hs, hleft, hq, hc⟩ := h
  have hact := Playback.settleAction_some ha
  cases a
  case deliverBeforeEnd =>
    left
    rcases State.perform_deliverBeforeEnd_play hs with he | ⟨e, he⟩ <;> rw [he] <;> exact ⟨hs, hleft, hq, hc⟩
  case silenceEnd =>
    obtain ⟨-, -, -, hz⟩ := hact
    refine .inr ⟨hleft.symm.trans hz, ?_⟩
    rw [u.perform_play .silenceEnd, Playback.leaveSilence_startNext, hq]
    cases u.play.qTone with
    | none => exact ⟨hc, .inr rfl⟩
    | some t => exact ⟨hc, .inl ⟨rfl, rfl⟩⟩
  all_goals simp [hs, hc] at hact

/-- Once a gap has led on, settling delivers OnToneStart or OnBecomeIdle and stays there. -/
theorem State.afterGap_perform {u : State} {a : SettleAction} (hne : u.reg.NonEmpty) (h : u.play.AfterGap)
    (ha : u.play.settleAction u.reg u.cfg.lead = some a) : (u.perform a).play.AfterGap := by
  obtain ⟨hc, h⟩ := h
  have hact := Playback.settleAction_some ha
  have hplay := u.perform_play a
  cases a
  case deliverIdle => exact hplay ▸ ⟨hc, h⟩
  case deliverStart => exact hplay ▸ ⟨hc, h⟩
  case rampUpDone =>
    obtain ⟨-, hs, -, hl⟩ := hact
    rcases h with ⟨-, hp⟩ | hsilent
    · exact absurd hne.2 (by omega)
    · simp [hs] at hsilent
  all_goals
    simp only [hc] at hact
    simp_all

theorem State.inGap_settle {u : State} {left : Nat} (hleft : 0 < left) (h : u.play.InGap left) :
    u.settle.play.InGap left :=
  State.settle_induction (P := fun v => v.play.InGap left)
    (fun _ _ hv ha => (State.inGap_perform hv ha).resolve_right fun hz => hleft.ne' hz.1) h

/-- With no sample left, settling leads on. -/
theorem State.afterGap_settle {u : State} (hne : u.reg.NonEmpty) (h : u.play.InGap 0) : u.settle.play.AfterGap := by
  have hkeeps : u.settle.reg.NonEmpty ∧ (u.settle.play.InGap 0 ∨ u.settle.play.AfterGap) :=
    State.settle_induction (P := fun v => v.reg.NonEmpty ∧ (v.play.InGap 0 ∨ v.play.AfterGap))
      (fun v a hv ha => ⟨by simpa using hv.1, hv.2.elim (fun hg => (State.inGap_perform hg ha).imp_right (·.2))
        fun hg => .inr (State.afterGap_perform hv.1 hg ha)⟩) ⟨hne, .inl h⟩
  refine hkeeps.2.resolve_left fun hg => ?_
  obtain ⟨-, hphase⟩ := Playback.settleAction_none (u.settle_ready hne)
  simp only [hg.silence] at hphase
  exact hphase.2 hg.countdown

/-- Each turn in a gap takes one sample of it. -/
theorem State.inGap_readSlots {s : State} {g k : Nat} (h : s.play.InGap g) (hk : k ≤ g) :
    (State.readSlots k 0 s).play.InGap (g - k) := by
  induction k with
  | zero => exact h
  | succ k ih =>
    obtain ⟨hs, hleft, hq, hc⟩ := State.inGap_settle (Nat.sub_pos_of_lt hk) (ih (by omega))
    rw [State.readSlots_succ, State.readSlot_play]
    constructor <;> simp [Playback.advance, hs, hleft, hq, hc, Nat.sub_sub]

/-- Settles O32: the end of the element begins the gap, which its turns count down to 0. -/
theorem interElementGapIsExact : Obligations.InterElementGapIsExact := by
  intro s hs hstate hpos hc hkey hactive g
  have hne := hs.nonEmpty
  have hend : s.play.settleAction s.reg s.cfg.lead = some .toneEnd := by
    rw [Playback.settleAction_of_rampDown hc hstate, if_pos hpos]
  have hplays := State.readSlots_settle_congr (State.settle_eq_perform hne hend)
  have hgap : (s.perform .toneEnd).play.InGap g := by
    rw [(State.perform_toneEnd_of_element ⟨hkey, hactive⟩).1]
    exact ⟨rfl, rfl, rfl, hc⟩
  refine ⟨fun k hk => ?_, ?_⟩
  · rw [hplays]
    have hin := State.inGap_settle (Nat.sub_pos_of_lt hk) (State.inGap_readSlots hgap hk.le)
    exact ⟨hin.silence, hin.countdown⟩
  · rw [hplays]
    have hout := State.inGap_readSlots hgap le_rfl
    rw [Nat.sub_self] at hout
    exact (State.afterGap_settle (by simpa using hne) hout).2

/-! ### OnToneStart and OnToneComplete alternate (R77) -/

theorem pairedFrom_append (isOpen : Bool) (l l' : List Event) :
    pairedFrom isOpen (l ++ l') = (pairedFrom isOpen l).bind fun o => pairedFrom o l' := by
  induction l generalizing isOpen with
  | nil => rfl
  | cons ev l ih => cases ev <;> cases isOpen <;> simp [pairedFrom, ih]

section
variable {p : Playback}

theorem Playback.toneOpen_of_not_tone (h : p.engState.isTone = false) : p.toneOpen = p.completePending := by
  simp [Playback.toneOpen, h]

@[simp] theorem Playback.toneOpen_beginTone (r : Registers) (t : Tone) : (p.beginTone r t).toneOpen = p.completePending := by
  simp [Playback.toneOpen, Playback.beginTone]

@[simp] theorem Playback.toneOpen_beginSilence (q : QueuedSilence) : (p.beginSilence q).toneOpen = p.completePending :=
  Playback.toneOpen_of_not_tone rfl

theorem Playback.toneOpen_startNext (r : Registers) (hs : p.engState = .silent) :
    (p.startNext r).toneOpen = p.completePending := by
  cases hq : p.qSil with
  | some q => rw [Playback.startNext_of_qSil r hs hq, Playback.toneOpen_beginSilence]
  | none =>
    cases ht : p.qTone with
    | some t => rw [Playback.startNext_of_qTone r hs hq ht, Playback.toneOpen_beginTone]
    | none =>
      rw [Playback.startNext_of_nothing_queued r hs hq ht]
      exact Playback.toneOpen_of_not_tone (by simp [hs, EngState.isTone])

/-- A queued silence begins only where no tone is active. -/
theorem Playback.toneOpen_queueSilence (q : QueuedSilence) : (p.queueSilence q).toneOpen = p.toneOpen := by
  by_cases hs : p.engState = .silent
  · rw [Playback.queueSilence_of_silent q hs, Playback.toneOpen_beginSilence,
      Playback.toneOpen_of_not_tone (by simp [hs, EngState.isTone])]
  · rw [Playback.queueSilence_of_ne_silent q hs]
    rfl

/-- A requested tone begins only where none has been heard; one that has been heard stays open until its ramp-down ends. -/
theorem Playback.toneOpen_toneRequest (r : Registers) (t : Tone) : (p.toneRequest r t).toneOpen = p.toneOpen := by
  cases hs : p.engState
  case silent => simp [Playback.toneRequest, Playback.toneOpen, Playback.beginTone, hs, EngState.isTone]
  case rampUp =>
    cases hp : p.startPending <;>
      simp [Playback.toneRequest, Playback.toneOpen, Playback.beginTone, Playback.cutToRampDown, hs, hp, EngState.isTone]
  all_goals simp [Playback.toneRequest, Playback.toneOpen, Playback.cutToRampDown, hs, EngState.isTone]

/-- An abandoned tone stays open until its OnToneComplete is delivered. -/
theorem Playback.completePending_abandonTone (ht : p.engState.isTone = true) : p.abandonTone.completePending = p.toneOpen := by
  simp [Playback.abandonTone, Playback.toneOpen, ht]

theorem Playback.toneOpen_silenceThenTone (n m : Nat) : (p.silenceThenTone n m).toneOpen = p.toneOpen := by
  rw [Playback.silenceThenTone, Playback.toneOpen_beginSilence]
  split_ifs with ht
  · exact Playback.completePending_abandonTone ht
  · exact (Playback.toneOpen_of_not_tone (by simpa using ht)).symm

theorem Playback.toneOpen_stop (policy : StopPolicy) (r : Registers) : (p.stop policy r).toneOpen = p.toneOpen := by
  cases hs : p.engState
  case rampUp =>
    cases hp : p.startPending <;> cases policy <;>
      simp [Playback.stop, Playback.policyStop, Playback.gracefulStop, Playback.truncateStop, Playback.clearQueues,
        Playback.dropUnheard, Playback.cutToRampDown, Playback.abandonTone, Playback.toneOpen, hs, hp, EngState.isTone]
  all_goals
    cases policy <;>
      simp [Playback.stop, Playback.policyStop, Playback.gracefulStop, Playback.truncateStop, Playback.clearQueues,
        Playback.dropSilence, Playback.cutToRampDown, Playback.abandonTone, Playback.toneOpen, hs, EngState.isTone]

theorem Playback.toneOpen_advance : p.advance.toneOpen = p.toneOpen := by
  cases hs : p.engState <;> simp [Playback.advance, Playback.toneOpen, hs]

end

/-- The events of one pass open and close what the pass opens and closes. -/
theorem State.pairedFrom_perform {u : State} {a : SettleAction} (h : u.play.Orderly u.cfg.lead)
    (ha : u.play.settleAction u.reg u.cfg.lead = some a) :
    pairedFrom u.play.toneOpen (u.play.delivers a).toList = some (u.perform a).play.toneOpen := by
  have hact := Playback.settleAction_some ha
  have hplay := u.perform_play a
  cases a
  case deliverAbandoned =>
    have hbefore : u.play.toneOpen = true := by simp [Playback.toneOpen, show u.play.completePending = true from hact]
    have hack : u.play.ackComplete.toneOpen = false := by
      cases ht : u.play.engState.isTone
      · simp [Playback.toneOpen, Playback.ackComplete, ht]
      · simp [Playback.toneOpen, Playback.ackComplete, h.completeBeforeStart hact ht]
    rw [hbefore]
    rcases hplay with he | he
    · rw [he, hack]; rfl
    · rw [he, Playback.toneOpen_queueSilence, hack]; rfl
  case deliverIdle => rw [hplay]; rfl
  case deliverStart =>
    obtain ⟨hc, hs, hp⟩ := hact
    simp [hplay, Playback.delivers, Playback.toneOpen, Playback.ackStart, hc, hs, hp, pairedFrom, EngState.isTone]
  case rampUpDone =>
    obtain ⟨hc, hs, hp, -⟩ := hact
    rw [hplay, Playback.afterRampUp]
    by_cases hz : u.play.indefinite = true ∨ 0 < u.play.sustainLeft <;>
      simp [Playback.delivers, Playback.toneOpen, hc, hs, hp, hz, pairedFrom, EngState.isTone]
  case sustainDone =>
    obtain ⟨-, hs, -⟩ := hact
    simp [hplay, Playback.delivers, Playback.toneOpen, Playback.endSustain, hs, pairedFrom, EngState.isTone]
  case cycleDone => rw [hplay]; rfl
  case toneEnd =>
    obtain ⟨hc, hs, -⟩ := hact
    obtain ⟨hp, -⟩ := h.notSounding (by simp [hs]) (by simp [hs])
    have hbefore : u.play.toneOpen = true := by simp [Playback.toneOpen, hs, hp, EngState.isTone]
    have hafter : (u.perform .toneEnd).play.toneOpen = false := by
      rcases hplay with he | he
      · rw [he, Playback.toneOpen_startNext _ rfl]; exact hc
      · rw [he, Playback.toneOpen_beginSilence]; exact hc
    rw [hbefore, hafter]
    rfl
  case deliverBeforeEnd =>
    obtain ⟨-, hs, -⟩ := hact
    rcases State.perform_deliverBeforeEnd_play hs with he | ⟨e, he⟩ <;> rw [he] <;> rfl
  case silenceEnd =>
    obtain ⟨hc, hs, -⟩ := hact
    have hbefore : u.play.toneOpen = false := by rw [Playback.toneOpen_of_not_tone (by simp [hs, EngState.isTone]), hc]
    have hafter : (u.perform .silenceEnd).play.toneOpen = false := by
      rw [hplay, Playback.leaveSilence_startNext]
      split
      · rw [Playback.toneOpen_beginTone]; exact hc
      · split
        · rw [Playback.toneOpen_beginSilence]; exact hc
        · rw [Playback.toneOpen_of_not_tone rfl]; exact hc
    rw [hbefore, hafter, Playback.delivers]
    split_ifs <;> rfl

/-- So do the events of settle. -/
theorem State.pairedFrom_settleEvents (fuel : Nat) {u : State} (h : u.play.Orderly u.cfg.lead) :
    pairedFrom u.play.toneOpen (u.settleEvents fuel) = some (u.settleWithin fuel).play.toneOpen := by
  induction fuel generalizing u with
  | zero => rfl
  | succ fuel ih =>
    rw [State.settleEvents, State.settleWithin]
    cases ha : u.play.settleAction u.reg u.cfg.lead with
    | none => rfl
    | some a =>
      simp only
      rw [pairedFrom_append, State.pairedFrom_perform h ha]
      exact ih (by simpa using u.orderly_perform h ha)

/-- And those of a READ. -/
theorem State.pairedFrom_readEvents (n i : Nat) {u : State} (hne : u.reg.NonEmpty) (h : u.play.Orderly u.cfg.lead) :
    pairedFrom u.play.toneOpen (State.readEvents n i u) = some (State.readSlots n i u).settle.play.toneOpen := by
  induction n generalizing i u with
  | zero => exact State.pairedFrom_settleEvents settlePasses h
  | succ n ih =>
    have hturn : (u.readSlot i).play.toneOpen = u.settle.play.toneOpen := by
      rw [State.readSlot_play, Playback.toneOpen_advance]
    rw [State.readEvents, pairedFrom_append, State.pairedFrom_settleEvents settlePasses h, State.readSlots, Option.bind_some,
      ← State.settle, ← hturn]
    exact ih (i + 1) (by simpa using hne) (by simpa [State.readSlots] using State.orderly_readSlots 1 i u hne h)

/-! ### What an operation can do, said once (R37, R46) -/

/-- The operations that act on the playback state alone (R69 to R73, R105). -/
def commandsEngine : Instr → Bool
  | .startTone _ => true
  | .startSilenceThenTone _ _ => true
  | .queueSilence _ _ _ => true
  | .startIndefiniteTone => true
  | .engineStop => true
  | .swapEngine => true
  | _ => false

/-- The playback state after one of them; after any other operation, the playback state itself. -/
def State.commanded (s : State) (i : Instr) : Playback :=
  match i with
  | .startTone us => s.play.toneRequest s.reg (.timed (toSamples s.cfg.sr (durationOperand us)))
  | .startSilenceThenTone us ut =>
    s.play.silenceThenTone (toSamples s.cfg.sr (durationOperand us)) (toSamples s.cfg.sr (durationOperand ut))
  | .queueSilence us follow ut =>
    s.play.queueSilence ⟨toSamples s.cfg.sr (durationOperand us), (followingOperand follow ut).map (toSamples s.cfg.sr)⟩
  | .startIndefiniteTone => s.play.toneRequest s.reg .indefinite
  | .engineStop => s.play.stop s.cfg.stopPolicy s.reg
  | .swapEngine => Playback.reset
  | _ => s.play

/-- What an operation that completes has done, by the component it acts on. -/
theorem exec_cases {i : Instr} {s t : State} (h : exec i s = .next t) :
    (configures i = true ∧ t = s.configure i)
    ∨ (commandsEngine i = true ∧ t = s.setPlay (s.commanded i))
    ∨ (∃ dit dah, i = .updatePaddle dit dah ∧ t = s.watchdog.takePaddles dit dah)
    ∨ (i = .stop ∧ t = s.keyerStop)
    ∨ ∃ n, i = .read n ∧ n.toNat ≤ s.buf.length ∧ t = { s.readSamples n.toNat with readResult := some n } := by
  have hnext {u : State} (hu : exec i s = .next u) : t = u := by
    rw [hu] at h
    cases h
    rfl
  by_cases hc : configures i = true
  · exact .inl ⟨hc, hnext (exec_of_configures hc s)⟩
  · refine .inr ?_
    cases i with
    | updatePaddle dit dah => exact .inr (.inl ⟨dit, dah, rfl, hnext rfl⟩)
    | stop => exact .inr (.inr (.inl ⟨rfl, hnext rfl⟩))
    | read n => exact .inr (.inr (.inr ⟨n, rfl, exec_read_cases h⟩))
    | startTone | startSilenceThenTone | queueSilence | startIndefiniteTone | engineStop | swapEngine =>
      exact .inl ⟨rfl, hnext rfl⟩
    | _ => exact absurd rfl hc

@[simp] theorem State.configure_fields (i : Instr) (s : State) :
    (s.configure i).cfg = s.cfg ∧ (s.configure i).play = s.play ∧ (s.configure i).input = s.input
      ∧ (s.configure i).time = s.time ∧ (s.configure i).buf = s.buf ∧ (s.configure i).samples = s.samples
      ∧ (s.configure i).radioKey = s.radioKey ∧ (s.configure i).idle = s.idle := by
  cases i <;> simp [State.configure]

@[simp] theorem State.watchdog_fields (s : State) :
    s.watchdog.cfg = s.cfg ∧ s.watchdog.reg = s.reg ∧ s.watchdog.input = s.input ∧ s.watchdog.time = s.time
      ∧ s.watchdog.samples = s.samples ∧ s.watchdog.idle = s.idle := by
  unfold State.watchdog
  split <;> simp

@[simp] theorem State.takePaddles_fields (d h : Bool) (s : State) :
    (s.takePaddles d h).cfg = s.cfg ∧ (s.takePaddles d h).reg = s.reg ∧ (s.takePaddles d h).input = s.input
      ∧ (s.takePaddles d h).time = s.time ∧ (s.takePaddles d h).samples = s.samples
      ∧ (s.takePaddles d h).idle = s.idle := by
  unfold State.takePaddles
  split
  · split <;> simp
  · simp
  · simp

/-- Every operation leaves the parameters, the waiting operations and TIME (R8, R18, R37). -/
theorem exec_frame {i : Instr} {s t : State} (h : exec i s = .next t) :
    t.cfg = s.cfg ∧ t.input = s.input ∧ t.time = s.time := by
  rcases exec_cases h with ⟨-, rfl⟩ | ⟨-, rfl⟩ | ⟨d, h, -, rfl⟩ | ⟨-, rfl⟩ | ⟨n, -, -, rfl⟩ <;> simp

theorem configures_of_commandsEngine {i : Instr} (h : commandsEngine i = true) : configures i = false := by
  cases i with
  | startTone | startSilenceThenTone | queueSilence | startIndefiniteTone | engineStop | swapEngine => rfl
  | _ => cases h

/-- Only a configuration command writes the configuration registers (R21). -/
theorem exec_reg {i : Instr} {s t : State} (h : exec i s = .next t) :
    t.reg = if configures i then (s.configure i).reg else s.reg := by
  rcases exec_cases h with ⟨hc, rfl⟩ | ⟨hc, rfl⟩ | ⟨d, h, rfl, rfl⟩ | ⟨rfl, rfl⟩ | ⟨n, rfl, -, rfl⟩
  · rw [if_pos hc]
  · simp [configures_of_commandsEngine hc]
  all_goals simp [configures]

/-- Only READ adds to the IDLE trace and to the sample stream (R20, R29). -/
theorem exec_idle_samples_of_ne_read {i : Instr} {s t : State} (hn : ∀ n, i ≠ .read n) (h : exec i s = .next t) :
    t.idle = s.idle ∧ t.samples = s.samples := by
  rcases exec_cases h with ⟨-, rfl⟩ | ⟨-, rfl⟩ | ⟨d, h, -, rfl⟩ | ⟨-, rfl⟩ | ⟨n, rfl, -, -⟩
  case inr.inr.inr.inr => exact absurd rfl (hn n)
  all_goals simp

/-! ### What the operations other than READ do to the playback state -/

/-- A count of samples that a command word or the keyer can ask for (R45, R62, R96). -/
def Requested (c : Config) (r : Registers) (n : Nat) : Prop :=
  (∃ u : Operand, n = toSamples c.sr (durationOperand u)) ∨ ∃ e : Element, n = toSamples c.sr (elementMs r.wpm e)

/-- A property of the playback state that the engine's commands keep, whatever they are asked for. -/
structure EngineKeeps (c : Config) (r : Registers) (P : Playback → Prop) : Prop where
  toneRequest : ∀ p t, P p → (∀ n, t = .timed n → Requested c r n) → P (p.toneRequest r t)
  silenceThenTone : ∀ p n m, P p → Requested c r n → Requested c r m → P (p.silenceThenTone n m)
  queueSilence : ∀ p q, P p → Requested c r q.samples → (∀ m, q.following = some m → Requested c r m) →
    P (p.queueSilence q)
  stop : ∀ p, P p → P (p.stop c.stopPolicy r)

section
variable {c : Config} {r : Registers} {P : Playback → Prop} {s : State}

theorem requested_operand (c : Config) (r : Registers) (u : Operand) : Requested c r (toSamples c.sr (durationOperand u)) :=
  .inl ⟨u, rfl⟩

theorem requested_element (c : Config) (r : Registers) (e : Element) : Requested c r (toSamples c.sr (elementMs r.wpm e)) :=
  .inr ⟨e, rfl⟩

/-- The keyer's gap is as long as its dit (R28). -/
theorem State.requested_gap (s : State) : Requested s.cfg s.reg s.gap.samples := requested_element s.cfg s.reg .dit

theorem State.requested_elementTone (s : State) (e : Element) (n : Nat) (h : s.elementTone e = .timed n) :
    Requested s.cfg s.reg n := by
  cases h
  exact requested_element s.cfg s.reg e

theorem EngineKeeps.commanded (hP : EngineKeeps s.cfg s.reg P) {i : Instr} (hswap : i ≠ .swapEngine) (h : P s.play) :
    P (s.commanded i) := by
  cases i with
  | startTone us =>
    refine hP.toneRequest _ _ h fun n hn => ?_
    cases hn
    exact requested_operand ..
  | startSilenceThenTone us ut => exact hP.silenceThenTone _ _ _ h (requested_operand ..) (requested_operand ..)
  | queueSilence us follow ut =>
    refine hP.queueSilence _ _ h (requested_operand ..) fun m hm => ?_
    cases follow
    · cases hm
    · cases hm
      exact requested_operand ..
  | startIndefiniteTone => exact hP.toneRequest _ _ h (by simp)
  | engineStop => exact hP.stop _ h
  | swapEngine => exact absurd rfl hswap
  | _ => exact h

theorem EngineKeeps.watchdog (hP : EngineKeeps s.cfg s.reg P) (h : P s.play) : P s.watchdog.play := by
  unfold State.watchdog
  split
  · simpa using hP.stop _ h
  · exact h

theorem EngineKeeps.takePaddles (hP : EngineKeeps s.cfg s.reg P) (dit dah : Bool) (h : P s.play) :
    P (s.takePaddles dit dah).play := by
  unfold State.takePaddles
  split
  · split
    · simp only [State.startFromIdle_fields, State.setKey_fields]
      exact hP.toneRequest _ _ h fun n hn => by cases hn; exact requested_element ..
    · exact h
  · exact h
  · exact h

/-- What the engine's commands keep, every operation but READ and SWAP_ENGINE keeps. -/
theorem EngineKeeps.exec (hP : EngineKeeps s.cfg s.reg P) {i : Instr} {t : State} (hread : ∀ n, i ≠ .read n)
    (hswap : i ≠ .swapEngine) (h : exec i s = .next t) (h0 : P s.play) : P t.play := by
  rcases exec_cases h with ⟨-, rfl⟩ | ⟨-, rfl⟩ | ⟨dit, dah, -, rfl⟩ | ⟨-, rfl⟩ | ⟨n, rfl, -, -⟩
  · simpa using h0
  · simpa using hP.commanded hswap h0
  · exact EngineKeeps.takePaddles (s := s.watchdog) (by simpa using hP) dit dah (hP.watchdog h0)
  · simpa using hP.stop _ h0
  · exact absurd rfl (hread n)

end

/-- Settles O33: READ pairs its events with what they open and close, and no other operation ends or begins a heard tone. -/
theorem toneEventsPair : Obligations.ToneEventsPair := by
  refine ⟨fun count s t hs h => ?_, fun i s t _ hread hswap h => ?_⟩
  · obtain ⟨-, rfl⟩ := exec_read_cases h
    exact State.pairedFrom_readEvents _ 0 hs.nonEmpty hs.orderly
  · have hkeeps : EngineKeeps s.cfg s.reg (fun p => p.toneOpen = s.play.toneOpen) :=
      ⟨fun p t hp _ => (Playback.toneOpen_toneRequest s.reg t).trans hp,
        fun p n m hp _ _ => (Playback.toneOpen_silenceThenTone n m).trans hp,
        fun p q hp _ _ => (Playback.toneOpen_queueSilence q).trans hp,
        fun p hp => (Playback.toneOpen_stop s.cfg.stopPolicy s.reg).trans hp⟩
    exact hkeeps.exec hread hswap h rfl

/-! ### The keyer's part of an operation (R97 to R110) -/

/-- The keyer after a decision point: the decided element is sent, if there is one (R108). -/
def Keyer.sendDecided (k : Keyer) : Keyer :=
  match k.decideNext with
  | some e => { k.clearLatches with element := e }
  | none => k

/-- The keyer after an event (R106 to R111). -/
def Keyer.react (clear : Bool) (now : Time) (k : Keyer) : Event → Keyer
  | .toneStart => if k.keyState = .idle then k else k.startTone now
  | .toneComplete => if k.SoundsElement then k.completeTone clear now else k
  | .beforeSilenceEnd => if k.keyState = .interElementSpace then k.sendDecided else k
  | .silenceComplete => if k.keyState = .interElementSpace then k.clearLatches.setKeyState .idle now else k
  | .becomeIdle => k

theorem State.fire_key (s : State) (ev : Event) :
    (s.fire ev).key = s.key.react s.cfg.latchClearAtToneComplete s.time ev := by
  cases ev <;> simp only [State.fire, Keyer.react]
  case toneStart =>
    split_ifs with h
    · rw [State.onToneStart_of_idle h]
    · rw [State.onToneStart_of_ne_idle h]; rfl
  case toneComplete =>
    split_ifs with h
    · rw [State.onToneComplete_of_element h]; rfl
    · rw [State.onToneComplete_of_no_element h]
  case beforeSilenceEnd =>
    split_ifs with h
    · unfold Keyer.sendDecided
      cases hd : s.key.decideNext with
      | none => rw [State.onBeforeSilenceEnd_of_undecided (.inr hd)]
      | some e => rw [State.onBeforeSilenceEnd_of_decided h hd]; rfl
    · rw [State.onBeforeSilenceEnd_of_undecided (.inl h)]
  case silenceComplete =>
    split_ifs with h
    · rw [State.onSilenceComplete_of_interElementSpace h]; rfl
    · rw [State.onSilenceComplete_of_ne_interElementSpace h]
  case becomeIdle => rfl

/-- A pass of settle changes the keyer by the event it fires. -/
theorem State.perform_key_of_delivers {s : State} {a : SettleAction} {ev : Event} (h : s.play.delivers a = some ev) :
    (s.perform a).key = s.key.react s.cfg.latchClearAtToneComplete s.time ev := by
  simp only [State.perform, State.conclude_fields, h]
  exact State.fire_key (s.setPlay _) ev

/-- A pass that fires none leaves the keyer. -/
theorem State.perform_key_of_delivers_none {s : State} {a : SettleAction} (h : s.play.delivers a = none) :
    (s.perform a).key = s.key := by
  simp only [State.perform, State.conclude_fields, h]
  rfl

/-- The keyer after it has taken its paddles (R102). -/
def Keyer.takePaddles (d h : Bool) (now : Time) (k : Keyer) : Keyer :=
  match k.keyState with
  | .idle => if d || h then (k.setPaddles d h).beginElement (if d then .dit else .dah) now else k.setPaddles d h
  | .tonePlaying => (k.setPaddles d h).latchEdges k.dit k.dah k.toneSnapDit k.toneSnapDah
  | .interElementSpace => (k.setPaddles d h).latchEdges k.dit k.dah k.silSnapDit k.silSnapDah

theorem State.takePaddles_key (d h : Bool) (s : State) : (s.takePaddles d h).key = s.key.takePaddles d h s.time := by
  unfold State.takePaddles Keyer.takePaddles
  cases s.key.keyState with
  | idle => simp only; split_ifs <;> simp
  | tonePlaying => rfl
  | interElementSpace => rfl

/-- What every event keeps of the keyer, READ keeps. -/
theorem State.readSamples_key_induction {P : Keyer → Prop} {s : State}
    (hreact : ∀ k ev, P k → P (k.react s.cfg.latchClearAtToneComplete s.time ev)) (h0 : P s.key) (n : Nat) :
    P (s.readSamples n).key := by
  have hkeeps := State.readSamples_induction (P := fun u => u.cfg = s.cfg ∧ u.time = s.time ∧ P u.key) (s := s)
    (fun u a ⟨hcfg, htime, hk⟩ _ => ⟨by simpa using hcfg, by simpa using htime, ?_⟩)
    (fun u i hu _ => by simpa using hu) n ⟨rfl, rfl, h0⟩
  · obtain ⟨-, -, hkey⟩ := hkeeps
    exact hkey
  · cases hd : u.play.delivers a with
    | none => exact State.perform_key_of_delivers_none hd ▸ hk
    | some ev =>
      rw [State.perform_key_of_delivers hd, hcfg, htime]
      exact hreact _ ev hk

/-- What every event, `keyerStop`, a change of mode and an UPDATE_PADDLE's paddles keep of the keyer, an operation keeps. -/
theorem exec_key_induction {P : Keyer → Prop} {i : Instr} {s t : State} (h : exec i s = .next t) (h0 : P s.key)
    (hreact : ∀ k ev, P k → P (k.react s.cfg.latchClearAtToneComplete s.time ev)) (hstop : ∀ k, P k → P (k.stopped s.time))
    (hmode : ∀ k b, P k → P { k with modeB := b })
    (hpaddles : ∀ k d h, i = .updatePaddle d h → P k → P (k.takePaddles d h s.time)) : P t.key := by
  rcases exec_cases h with ⟨hc, rfl⟩ | ⟨-, rfl⟩ | ⟨dit, dah, hi, rfl⟩ | ⟨-, rfl⟩ | ⟨n, -, -, rfl⟩
  · cases i with
    | setModeB b => exact hmode _ b h0
    | _ => exact h0
  · exact h0
  · have hwatchdog : P s.watchdog.key := by
      unfold State.watchdog
      split
      · simpa using hstop _ h0
      · exact h0
    simpa only [State.takePaddles_key, State.watchdog_fields] using hpaddles _ dit dah hi hwatchdog
  · simpa using hstop _ h0
  · exact State.readSamples_key_induction hreact h0 n.toNat

/-! ### Every step keeps the machine consistent (R21, R24) -/

section
variable {c : Config} {r : Registers}

theorem Registers.Configured.tune (h : r.Configured c) (hz : Operand) : (r.tune c hz).Configured c := by
  unfold Registers.tune
  split_ifs with hhz
  · obtain ⟨hfreq, hspc, hcycles, hl, hvol, hgain, hwpm⟩ := r.setFrequency_fields c hz.toInt.toNat
    obtain ⟨hcycle, hup, hdown⟩ := r.patched_setFrequency c hz.toInt.toNat
    exact ⟨by omega, by rw [hspc, hfreq], hvol ▸ h.volLegal, by rw [hgain, hvol, h.gainOfVol], hwpm ▸ h.wpmLegal,
      by rw [hcycles, hwpm], hl, hcycle, hup, hdown⟩
  · exact h

theorem Registers.Configured.setVolume (h : r.Configured c) (pct : Int) :
    (r.setVolume (clamp pct 0 100).toNat).Configured c := by
  have hclamp := coe_toNat_clamp pct (lo := 0) (hi := 100) (by decide) (by decide)
  obtain ⟨hfreq, hspc, hvol, hgain, hwpm, hcycles, hl⟩ := r.setVolume_fields (clamp pct 0 100).toNat
  obtain ⟨hcycle, hup, hdown⟩ := r.patched_setVolume (clamp pct 0 100).toNat
  exact ⟨hfreq ▸ h.freqLegal, by rw [hspc, hfreq, h.spcOfFreq], by omega, by rw [hgain, hvol], hwpm ▸ h.wpmLegal,
    by rw [hcycles, hspc, hwpm, h.cyclesOfRamp], by rw [hl, hcycles, hspc, h.lengthOfRamp], hcycle, hup, hdown⟩

theorem Registers.Configured.setWpm (h : r.Configured c) (wpm : Int) :
    (r.setWpm c (clamp wpm 5 60).toNat).Configured c := by
  have hclamp := coe_toNat_clamp wpm (lo := 5) (hi := 60) (by decide) (by decide)
  obtain ⟨hfreq, hspc, hvol, hgain, hwpm, hcycles, hl⟩ := r.setWpm_fields c (clamp wpm 5 60).toNat
  obtain ⟨hcycle, hup, hdown⟩ := r.patched_setWpm c (clamp wpm 5 60).toNat
  exact ⟨hfreq ▸ h.freqLegal, by rw [hspc, hfreq, h.spcOfFreq], hvol ▸ h.volLegal, by rw [hgain, hvol, h.gainOfVol], by omega,
    by rw [hcycles, hspc, hwpm], by rw [hl, hspc], hcycle, hup, hdown⟩

end

theorem exec_keeps_configured {i : Instr} {s t : State} (h : exec i s = .next t) (hr : s.reg.Configured s.cfg) :
    t.reg.Configured s.cfg := by
  rw [exec_reg h]
  split_ifs
  · cases i with
    | setFrequency hz => exact hr.tune hz
    | setVolume pct => exact hr.setVolume pct.toInt
    | setWpm wpm => exact hr.setWpm wpm.toInt
    | _ => exact hr
  · exact hr

theorem engineKeeps_orderly (c : Config) (r : Registers) (lead : Nat) : EngineKeeps c r (Playback.Orderly lead) :=
  ⟨fun _ t h _ => h.toneRequest r t, fun _ n m h _ _ => h.silenceThenTone n m, fun _ q h _ _ => h.queueSilence q,
    fun _ h => h.stop c.stopPolicy r⟩

theorem exec_keeps_orderly {i : Instr} {s t : State} (h : exec i s = .next t) (hne : s.reg.NonEmpty)
    (hp : s.play.Orderly s.cfg.lead) : t.play.Orderly s.cfg.lead := by
  by_cases hread : ∃ n, i = .read n
  · obtain ⟨n, rfl⟩ := hread
    obtain ⟨-, rfl⟩ := exec_read_cases h
    simpa [State.readSamples] using
      (State.readSlots n.toNat 0 s).orderly_settle (by simpa using State.orderly_readSlots n.toNat 0 s hne hp)
  · by_cases hswap : i = .swapEngine
    · subst hswap
      cases h
      exact Playback.orderly_reset _
    · exact (engineKeeps_orderly s.cfg s.reg s.cfg.lead).exec (fun n hn => hread ⟨n, hn⟩) hswap h hp

/-- A keyer transition is dated with TIME (R97). -/
theorem Keyer.lastT_react (clear : Bool) (now : Time) (k : Keyer) (ev : Event) :
    (k.react clear now ev).lastT = k.lastT ∨ (k.react clear now ev).lastT = now := by
  cases ev <;> simp only [Keyer.react]
  case toneStart => split_ifs <;> simp [Keyer.startTone]
  case toneComplete => split_ifs <;> simp [Keyer.completeTone]
  case beforeSilenceEnd =>
    split_ifs
    · unfold Keyer.sendDecided
      split <;> simp
    · simp
  case silenceComplete => split_ifs <;> simp
  case becomeIdle => simp

theorem Keyer.lastT_takePaddles (d h : Bool) (now : Time) (k : Keyer) :
    (k.takePaddles d h now).lastT = k.lastT ∨ (k.takePaddles d h now).lastT = now := by
  unfold Keyer.takePaddles
  split
  · split_ifs <;> simp [Keyer.beginElement]
  · simp
  · simp

theorem exec_keeps_lastT_past {i : Instr} {s t : State} (h : exec i s = .next t)
    (hk : s.key.lastT.toNat ≤ s.time.toNat) : t.key.lastT.toNat ≤ s.time.toNat := by
  have hdated {k k' : Keyer} (hk : k.lastT.toNat ≤ s.time.toNat) (h : k'.lastT = k.lastT ∨ k'.lastT = s.time) :
      k'.lastT.toNat ≤ s.time.toNat := by
    rcases h with h | h <;> rw [h]
    exact hk
  exact exec_key_induction (P := fun k => k.lastT.toNat ≤ s.time.toNat) h hk
    (fun k ev hk => hdated hk (Keyer.lastT_react _ _ k ev)) (fun k _ => (by simp [Keyer.stopped]))
    (fun _ _ hk => hk) (fun k d h _ hk => hdated hk (Keyer.lastT_takePaddles d h s.time k))

theorem exec_keeps_consistent {i : Instr} {s t : State} (hs : s.Consistent) (h : exec i s = .next t) : t.Consistent := by
  obtain ⟨hcfg, -, htime⟩ := exec_frame h
  refine ⟨?_, ?_, ?_, ?_⟩
  · exact hcfg ▸ hs.admitted
  · exact hcfg ▸ exec_keeps_configured h hs.configured
  · exact hcfg ▸ exec_keeps_orderly h hs.nonEmpty hs.orderly
  · exact htime ▸ exec_keeps_lastT_past h hs.lastTPast

/-- Taking a command moves TIME on and touches nothing else that consistency speaks of. -/
theorem State.Consistent.accept {s : State} (hs : s.Consistent) (i : Instr) {c : Command} (rest : List Command)
    (ht : s.time.toNat ≤ c.time.toNat) : (s.accept i c rest).Consistent :=
  ⟨hs.admitted, hs.configured, hs.orderly, hs.lastTPast.trans ht⟩

/-- Settles O55: the operation runs at a consistent state, and keeps each part of the invariant. -/
theorem stepKeepsConsistency : Obligations.StepKeepsConsistency := by
  intro s t hs h
  rcases step_cases h with ⟨rfl, -⟩ | ⟨c, rest, i, -, ht, -, hexec⟩
  · exact hs
  · exact exec_keeps_consistent (hs.accept i rest ht) hexec

theorem State.consistent_resetWith {c : Config} (hc : c.Admitted) (t0 : Time) : (State.resetWith c t0).Consistent :=
  ⟨hc, Registers.configured_reset hc, Playback.orderly_reset _, le_rfl⟩

/-- Settles O56: the reset configuration is configured, and the reset playback state orderly. -/
theorem resetIsConsistent : Obligations.ResetIsConsistent :=
  ⟨fun _ t0 hc => State.consistent_resetWith hc t0, State.consistent_resetWith (by decide) 0#64⟩

/-! ### No count exceeds its field (R9, R21, R23) -/

/-- The widths of the registers' counts (R21), E.L leaving room for a cycle more: the bound of a cut's index. -/
structure Registers.Fits (r : Registers) : Prop where
  freqHz : r.freqHz < 2 ^ 16
  spc : r.spc < 2 ^ 16
  vol : r.vol < 2 ^ 7
  wpm : r.wpm < 2 ^ 6
  rampCycles : r.rampCycles < 2 ^ 16
  l : r.l + r.spc < 2 ^ 32

/-- The widths of the playback state's counts (R23). -/
structure Playback.Fits (p : Playback) : Prop where
  pos : p.pos < 2 ^ 32
  sustainLeft : p.sustainLeft < 2 ^ 32
  silenceLeft : p.silenceLeft < 2 ^ 32
  qTone : ∀ t, p.qTone = some t → t.length < 2 ^ 32
  qSil : ∀ q, p.qSil = some q → q.samples < 2 ^ 32 ∧ ∀ m, q.following = some m → m < 2 ^ 32

theorem State.FitsWidths.play {s : State} (h : s.FitsWidths) : s.play.Fits :=
  ⟨h.pos, h.sustainLeft, h.silenceLeft, h.qTone, h.qSil⟩

theorem State.fitsWidths_of_fits {s : State} (hr : s.reg.Fits) (hp : s.play.Fits) : s.FitsWidths := by
  obtain ⟨hfreq, hspc, hvol, hwpm, hcycles, hl⟩ := hr
  obtain ⟨hpos, hsus, hsil, hqt, hqs⟩ := hp
  exact ⟨hfreq, hspc, hvol, hwpm, hcycles, by omega, hpos, hsus, hsil, hqt, hqs⟩

/-- Legal registers fit: a cycle has at most 1921 samples, and a ramp 241 cycles. -/
theorem Registers.Configured.fits {c : Config} {r : Registers} (hc : c.Admitted) (h : r.Configured c) : r.Fits := by
  obtain ⟨⟨hlo, hhi⟩, -⟩ := hc
  obtain ⟨hfreqlo, hfreqhi⟩ := h.freqLegal
  obtain ⟨hspclo, hspchi⟩ := h.spcOfFreq ▸ samplesPerCycle_bounds c.roundTies hlo hhi hfreqlo hfreqhi
  have hcycles : r.rampCycles ≤ 241 := h.cyclesOfRamp ▸ rampCyclesOf_le c.roundTies hhi hspclo
  have hl : r.l ≤ 241 * 1921 := h.lengthOfRamp ▸ Nat.mul_le_mul hcycles hspchi
  have hvol := h.volLegal
  obtain ⟨-, hwpm⟩ := h.wpmLegal
  constructor <;> omega

theorem State.fitsWidths_resetWith {c : Config} (hc : c.Admitted) (t0 : Time) : (State.resetWith c t0).FitsWidths :=
  State.fitsWidths_of_fits ((Registers.configured_reset hc).fits hc)
    ⟨Nat.two_pow_pos 32, Nat.two_pow_pos 32, Nat.two_pow_pos 32, by simp [State.resetWith, Playback.reset],
      by simp [State.resetWith, Playback.reset]⟩

/-- Every count that can be asked for fits. -/
theorem Requested.lt {c : Config} {r : Registers} (hc : c.Admitted) {n : Nat} (h : Requested c r n) : n < 2 ^ 32 := by
  obtain ⟨⟨-, hsr⟩, -⟩ := hc
  rcases h with ⟨u, rfl⟩ | ⟨e, rfl⟩
  · rw [toSamples_durationOperand]
    have hmul := Nat.mul_lt_mul_of_lt_of_le u.isLt hsr (by omega)
    exact Nat.div_lt_of_lt_mul (by omega)
  · rw [toSamples_elementMs]
    refine (Nat.div_le_self _ _).trans_lt ?_
    split <;> omega

theorem Playback.Fits.beginTone {r : Registers} {p : Playback} {t : Tone} (h : p.Fits) (ht : t.length < 2 ^ 32) :
    (p.beginTone r t).Fits := by
  obtain ⟨-, -, hsil, hqt, hqs⟩ := h
  refine ⟨Nat.two_pow_pos 32, ?_, hsil, hqt, hqs⟩
  cases t with
  | timed n => exact lt_of_le_of_lt ((Nat.div_le_self _ _).trans (Nat.sub_le _ _)) ht
  | indefinite => exact Nat.two_pow_pos 32

theorem Playback.Fits.beginSilence {p : Playback} {q : QueuedSilence} (h : p.Fits)
    (hq : q.samples < 2 ^ 32 ∧ ∀ m, q.following = some m → m < 2 ^ 32) : (p.beginSilence q).Fits := by
  obtain ⟨-, hsus, -, hqt, -⟩ := h
  refine ⟨Nat.two_pow_pos 32, hsus, hq.1, fun t ht => ?_, by simp [Playback.beginSilence]⟩
  cases hf : q.following with
  | none => exact hqt t (by simpa [Playback.beginSilence, hf] using ht)
  | some m =>
    obtain rfl : .timed m = t := by simpa [Playback.beginSilence, hf] using ht
    exact hq.2 m hf

theorem Playback.Fits.clearQueues {p : Playback} (h : p.Fits) : p.clearQueues.Fits :=
  ⟨h.pos, h.sustainLeft, h.silenceLeft, by simp [Playback.clearQueues], by simp [Playback.clearQueues]⟩

theorem Playback.Fits.abandonTone {p : Playback} (h : p.Fits) : p.abandonTone.Fits :=
  ⟨Nat.two_pow_pos 32, Nat.two_pow_pos 32, h.silenceLeft, h.qTone, h.qSil⟩

section
variable {r : Registers} {p : Playback}

/-- A cut enters below the end of the ramp, or within a cycle (R66). -/
theorem Playback.cutIndex_lt (hr : r.Fits) (hspc : 0 < r.spc) (p : Playback) : p.cutIndex r < 2 ^ 32 := by
  have hl := hr.l
  have hmod (m : Nat) := Nat.mod_lt m hspc
  unfold Playback.cutIndex
  split
  · have := hmod (min p.pos (r.l - 1))
    omega
  · have := hmod p.pos
    omega

theorem Playback.Fits.cutToRampDown (h : p.Fits) (hr : r.Fits) (hspc : 0 < r.spc) : (p.cutToRampDown r).Fits :=
  ⟨p.cutIndex_lt hr hspc, Nat.two_pow_pos 32, h.silenceLeft, h.qTone, h.qSil⟩

theorem Playback.Fits.toneRequest (h : p.Fits) (hr : r.Fits) (hspc : 0 < r.spc) {t : Tone} (ht : t.length < 2 ^ 32) :
    (p.toneRequest r t).Fits := by
  have htone : ∀ t', some t = some t' → t'.length < 2 ^ 32 := fun t' h => by cases h; exact ht
  have hbegin : ({ p with qSil := none, qTone := none }.beginTone r t).Fits :=
    Playback.Fits.beginTone (p := p.clearQueues) h.clearQueues ht
  have hcut : ({ p.cutToRampDown r with qSil := none, qTone := some t } : Playback).Fits := by
    obtain ⟨hpos, hsus, hsil, -, -⟩ := h.cutToRampDown hr hspc
    exact ⟨hpos, hsus, hsil, htone, by simp⟩
  obtain ⟨hpos, hsus, hsil, -, hqs⟩ := h
  cases hs : p.engState with
  | silent => exact Playback.toneRequest_of_unheard r t (.inl hs) ▸ hbegin
  | rampUp =>
    cases hp : p.startPending with
    | true => exact Playback.toneRequest_of_unheard r t (.inr ⟨hs, hp⟩) ▸ hbegin
    | false => exact Playback.toneRequest_of_heard r t (.inl ⟨hs, hp⟩) ▸ hcut
  | sustain => exact Playback.toneRequest_of_heard r t (.inr hs) ▸ hcut
  | rampDown => exact Playback.toneRequest_of_rampDown r t hs ▸ ⟨hpos, hsus, hsil, htone, by simp⟩
  | timedSilence => exact Playback.toneRequest_of_timedSilence r t hs ▸ ⟨hpos, hsus, hsil, htone, hqs⟩

theorem Playback.Fits.silenceThenTone (h : p.Fits) {n m : Nat} (hn : n < 2 ^ 32) (hm : m < 2 ^ 32) :
    (p.silenceThenTone n m).Fits := by
  have hq : n < 2 ^ 32 ∧ ∀ m', some m = some m' → m' < 2 ^ 32 := ⟨hn, fun m' h => by cases h; exact hm⟩
  unfold Playback.silenceThenTone
  split_ifs
  · exact h.abandonTone.beginSilence hq
  · exact h.beginSilence hq

theorem Playback.Fits.queueSilence (h : p.Fits) {q : QueuedSilence}
    (hq : q.samples < 2 ^ 32 ∧ ∀ m, q.following = some m → m < 2 ^ 32) : (p.queueSilence q).Fits := by
  by_cases hs : p.engState = .silent
  · exact Playback.queueSilence_of_silent q hs ▸ h.beginSilence hq
  · rw [Playback.queueSilence_of_ne_silent q hs]
    exact ⟨h.pos, h.sustainLeft, h.silenceLeft, h.qTone, fun q' h => by cases h; exact hq⟩

theorem Playback.Fits.policyStop (h : p.Fits) (hr : r.Fits) (hspc : 0 < r.spc) (policy : StopPolicy) :
    (p.policyStop policy r).Fits := by
  obtain ⟨-, hsus, hsil, hqt, hqs⟩ := h.abandonTone
  cases policy with
  | truncate => exact ⟨Nat.two_pow_pos 32, hsus, hsil, hqt, hqs⟩
  | graceful =>
    unfold Playback.policyStop Playback.gracefulStop
    simp only
    split
    · exact ⟨h.pos, h.sustainLeft, h.silenceLeft, h.qTone, h.qSil⟩
    · exact h.cutToRampDown hr hspc

theorem Playback.Fits.stop (h : p.Fits) (hr : r.Fits) (hspc : 0 < r.spc) (policy : StopPolicy) : (p.stop policy r).Fits := by
  have hpolicy := h.clearQueues.policyStop hr hspc policy
  obtain ⟨hpos, hsus, hsil, hqt, hqs⟩ := h.clearQueues
  cases hs : p.engState with
  | silent => exact Playback.stop_of_silent policy r hs ▸ h.clearQueues
  | timedSilence => exact Playback.stop_of_timedSilence policy r hs ▸ ⟨hpos, hsus, Nat.two_pow_pos 32, hqt, hqs⟩
  | rampUp =>
    cases hp : p.startPending with
    | true => exact Playback.stop_of_unheard policy r hs hp ▸ ⟨Nat.two_pow_pos 32, Nat.two_pow_pos 32, hsil, hqt, hqs⟩
    | false => exact Playback.stop_of_heard policy r (.inl ⟨hs, hp⟩) ▸ hpolicy
  | sustain => exact Playback.stop_of_heard policy r (.inr (.inl hs)) ▸ hpolicy
  | rampDown => exact Playback.stop_of_heard policy r (.inr (.inr hs)) ▸ hpolicy

/-- The queued tone begins. -/
theorem Playback.Fits.beginQueuedTone (h : p.Fits) {t : Tone} (ht : p.qTone = some t) :
    ({ p with qTone := none }.beginTone r t).Fits :=
  Playback.Fits.beginTone ⟨h.pos, h.sustainLeft, h.silenceLeft, by simp, h.qSil⟩ (h.qTone t ht)

theorem Playback.Fits.startNext (h : p.Fits) : (p.startNext r).Fits := by
  by_cases hs : p.engState = .silent
  · cases hq : p.qSil with
    | some q => exact Playback.startNext_of_qSil r hs hq ▸ h.beginSilence (h.qSil q hq)
    | none =>
      cases ht : p.qTone with
      | some t => exact Playback.startNext_of_qTone r hs hq ht ▸ h.beginQueuedTone ht
      | none =>
        rw [Playback.startNext_of_nothing_queued r hs hq ht]
        exact ⟨h.pos, h.sustainLeft, h.silenceLeft, h.qTone, h.qSil⟩
  · rwa [Playback.startNext_of_ne_silent r hs]

theorem Playback.Fits.leaveSilence (h : p.Fits) : (p.leaveSilence r).Fits := by
  unfold Playback.leaveSilence
  cases ht : p.qTone with
  | some t => exact h.beginQueuedTone ht
  | none =>
    cases hq : p.qSil with
    | some q => exact h.beginSilence (h.qSil q hq)
    | none => exact ⟨h.pos, h.sustainLeft, Nat.two_pow_pos 32, h.qTone, h.qSil⟩

/-- An emission counts up to the length of the phase, or down to 0. -/
theorem Playback.Fits.advance {lead : Nat} (h : p.Fits) (hr : r.Fits) (hready : p.settleAction r lead = none) :
    p.advance.Fits := by
  have hl := hr.l
  have hphase := (Playback.settleAction_none hready).2
  obtain ⟨hpos, hsus, hsil, hqt, hqs⟩ := h
  unfold Playback.advance
  cases hs : p.engState <;> simp only [hs] at hphase ⊢
  case silent => exact ⟨hpos, hsus, hsil, hqt, hqs⟩
  case timedSilence => exact ⟨hpos, hsus, (Nat.sub_le _ _).trans_lt hsil, hqt, hqs⟩
  all_goals exact ⟨show p.pos + 1 < 2 ^ 32 by omega, hsus, hsil, hqt, hqs⟩

end

theorem engineKeeps_fits {c : Config} {r : Registers} (hc : c.Admitted) (hr : r.Fits) (hspc : 0 < r.spc) :
    EngineKeeps c r Playback.Fits where
  toneRequest p t h ht := by
    refine h.toneRequest hr hspc ?_
    cases t with
    | timed n => exact (ht n rfl).lt hc
    | indefinite => exact Nat.two_pow_pos 32
  silenceThenTone p n m h hn hm := h.silenceThenTone (hn.lt hc) (hm.lt hc)
  queueSilence p q h hn hm := h.queueSilence ⟨hn.lt hc, fun m hq => (hm m hq).lt hc⟩
  stop p h := h.stop hr hspc c.stopPolicy

/-- One pass of settle keeps the counts within their fields: what it sets anew is 0, or was queued or requested. -/
theorem State.fits_perform {u : State} {a : SettleAction} (hc : u.cfg.Admitted) (hr : u.reg.Fits) (hspc : 0 < u.reg.spc)
    (h : u.play.Fits) : (u.perform a).play.Fits := by
  have hgap : u.gap.samples < 2 ^ 32 ∧ ∀ m, u.gap.following = some m → m < 2 ^ 32 :=
    ⟨u.requested_gap.lt hc, by simp [State.gap]⟩
  have hplay := u.perform_play a
  obtain ⟨hpos, hsus, hsil, hqt, hqs⟩ := h
  cases a
  case deliverAbandoned =>
    have hack : u.play.ackComplete.Fits := ⟨hpos, hsus, hsil, hqt, hqs⟩
    exact hplay.elim (· ▸ hack) (· ▸ hack.queueSilence hgap)
  case deliverIdle => exact hplay ▸ ⟨hpos, hsus, hsil, hqt, hqs⟩
  case deliverStart => exact hplay ▸ ⟨hpos, hsus, hsil, hqt, hqs⟩
  case rampUpDone => exact hplay ▸ ⟨Nat.two_pow_pos 32, hsus, hsil, hqt, hqs⟩
  case sustainDone => exact hplay ▸ ⟨Nat.two_pow_pos 32, hsus, hsil, hqt, hqs⟩
  case cycleDone =>
    refine hplay ▸ ⟨Nat.two_pow_pos 32, ?_, hsil, hqt, hqs⟩
    simp only [Playback.nextCycle]
    split <;> omega
  case toneEnd =>
    have hsilent : u.play.enterSilent.Fits := ⟨Nat.two_pow_pos 32, Nat.two_pow_pos 32, hsil, hqt, hqs⟩
    exact hplay.elim (· ▸ hsilent.startNext) (· ▸ hsilent.beginSilence hgap)
  case deliverBeforeEnd =>
    have hack : u.play.ackBeforeEnd.Fits := ⟨hpos, hsus, hsil, hqt, hqs⟩
    rcases hplay with he | ⟨e, he⟩
    · exact he ▸ hack
    · exact he ▸ hack.toneRequest hr hspc ((u.requested_elementTone e _ rfl).lt hc)
  case silenceEnd =>
    have hleave : (u.play.leaveSilence u.reg).Fits := Playback.Fits.leaveSilence ⟨hpos, hsus, hsil, hqt, hqs⟩
    exact hplay ▸ hleave.startNext

theorem exec_keeps_fits {i : Instr} {s t : State} (hs : s.Consistent) (h : exec i s = .next t) (hp : s.play.Fits) :
    t.play.Fits := by
  have hr := hs.configured.fits hs.admitted
  have hne := hs.nonEmpty
  by_cases hread : ∃ n, i = .read n
  · obtain ⟨n, rfl⟩ := hread
    obtain ⟨-, rfl⟩ := exec_read_cases h
    obtain ⟨-, -, hfits⟩ := State.readSamples_induction (P := fun u => u.cfg = s.cfg ∧ u.reg = s.reg ∧ u.play.Fits) (s := s)
      (fun u a ⟨hcfg, hreg, hu⟩ _ => ⟨by simpa using hcfg, by simpa using hreg,
        State.fits_perform (hcfg ▸ hs.admitted) (hreg ▸ hr) (hreg ▸ hne.1) hu⟩)
      (fun u i ⟨hcfg, hreg, hu⟩ hready => ⟨hcfg, hreg, hu.advance (hreg ▸ hr) (hready (hreg ▸ hne))⟩)
      n.toNat ⟨rfl, rfl, hp⟩
    exact hfits
  · by_cases hswap : i = .swapEngine
    · subst hswap
      cases h
      exact (State.fitsWidths_resetWith hs.admitted 0#64).play
    · exact (engineKeeps_fits hs.admitted hr hne.1).exec (fun n hn => hread ⟨n, hn⟩) hswap h hp

/-- Settles O57: the registers fit because they are legal, and what an operation counts anew it was asked for. -/
theorem countsFitTheirFields : Obligations.CountsFitTheirFields := by
  refine ⟨fun c t0 hc => State.fitsWidths_resetWith hc t0, fun s t hs hf h => ?_⟩
  rcases step_cases h with ⟨rfl, -⟩ | ⟨c, rest, i, -, ht, -, hexec⟩
  · exact hf
  · have hbefore := hs.accept i rest ht
    have hafter := exec_keeps_consistent hbefore hexec
    exact State.fitsWidths_of_fits (hafter.configured.fits hafter.admitted) (exec_keeps_fits hbefore hexec hf.play)

/-! ### Paddle edges, and the keyer with one paddle (R98, R113, R114) -/

theorem State.takePaddles_of_tonePlaying {s : State} (hs : s.key.keyState = .tonePlaying) (d h : Bool) :
    s.takePaddles d h
      = s.setKey ((s.key.setPaddles d h).latchEdges s.key.dit s.key.dah s.key.toneSnapDit s.key.toneSnapDah) := by
  simp [State.takePaddles, hs]

theorem State.takePaddles_of_interElementSpace {s : State} (hs : s.key.keyState = .interElementSpace) (d h : Bool) :
    s.takePaddles d h
      = s.setKey ((s.key.setPaddles d h).latchEdges s.key.dit s.key.dah s.key.silSnapDit s.key.silSnapDah) := by
  simp [State.takePaddles, hs]

/-- Settles O38: with the watchdog quiet, the paddles are taken and their edges latched. -/
theorem paddleEdgesLatch : Obligations.PaddleEdgesLatch := by
  intro d h s hrecent
  rw [exec_updatePaddle, State.watchdog_of_idle_or_recent (.inr hrecent)]
  refine ⟨fun hs => ?_, fun hs => ?_⟩
  · rw [State.takePaddles_of_tonePlaying hs]
    rfl
  · rw [State.takePaddles_of_interElementSpace hs]
    rfl

/-- Settles O48: rule (1), the opposite paddle being pressed. -/
theorem heldSqueezeAlternates : Obligations.HeldSqueezeAlternates := by
  intro k hdit hdah
  have hpressed : k.pressed k.element.opposite = true := by cases k.element <;> assumption
  rw [Keyer.decideNext_of_element rfl, if_pos (.inl hpressed)]

/-- TONE_SNAP's entry for an element. -/
def Keyer.toneSnap (k : Keyer) : Element → Bool
  | .dit => k.toneSnapDit
  | .dah => k.toneSnapDah

/-- The keyer with only `e`'s paddle in use: the other is not pressed, latched or in a snapshot, and `e` alone is sent (R113). -/
structure Keyer.Only (e : Element) (k : Keyer) : Prop where
  up : k.pressed e.opposite = false
  noLatch : k.latch e.opposite = false
  noToneSnap : k.toneSnap e.opposite = false
  noSilSnap : k.silSnap e.opposite = false
  sends : k.keyState ≠ .idle → k.element = e

theorem Keyer.ditOnly_iff (k : Keyer) : k.DitOnly ↔ k.Only .dit :=
  ⟨fun ⟨hup, hlatch, htone, hsil, hsends⟩ => ⟨hup, hlatch, htone, hsil, hsends⟩,
    fun ⟨hup, hlatch, htone, hsil, hsends⟩ => ⟨hup, hlatch, htone, hsil, hsends⟩⟩

theorem Keyer.dahOnly_iff (k : Keyer) : k.DahOnly ↔ k.Only .dah :=
  ⟨fun ⟨hup, hlatch, htone, hsil, hsends⟩ => ⟨hup, hlatch, htone, hsil, hsends⟩,
    fun ⟨hup, hlatch, htone, hsil, hsends⟩ => ⟨hup, hlatch, htone, hsil, hsends⟩⟩

section
variable {e : Element} {k : Keyer}

/-- No rule decides for the other element: it is neither pressed nor latched, and no squeeze was held at the tone's start (R109). -/
theorem Keyer.Only.decideNext_eq (h : k.Only e) (hs : k.keyState ≠ .idle) :
    k.decideNext = if k.silSnap e = true ∨ k.pressed e = true then some e else none := by
  obtain ⟨hup, hlatch, htone, -, hsends⟩ := h
  have hsqueeze : ¬ (k.toneSnapDit = true ∧ k.toneSnapDah = true) := by
    cases e <;> simp_all [Keyer.toneSnap, Element.opposite]
  rw [Keyer.decideNext_of_element (hsends hs), if_neg (by simp [hup, hlatch]), if_neg (c := k.modeB = true ∧ _) (by tauto)]

theorem Keyer.Only.stopped (h : k.Only e) (now : Time) : (k.stopped now).Only e := by
  cases e <;> exact ⟨h.up, rfl, rfl, rfl, fun hs => absurd rfl hs⟩

theorem Keyer.Only.startTone (h : k.Only e) (hs : k.keyState ≠ .idle) (now : Time) : (k.startTone now).Only e := by
  obtain ⟨hup, hlatch, -, hsil, hsends⟩ := h
  cases e <;> exact ⟨hup, hlatch, hup, hsil, fun _ => hsends hs⟩

theorem Keyer.Only.completeTone (h : k.Only e) (hs : k.keyState ≠ .idle) (clear : Bool) (now : Time) :
    (k.completeTone clear now).Only e := by
  obtain ⟨hup, hlatch, htone, -, hsends⟩ := h
  cases clear with
  | true => cases e <;> exact ⟨hup, rfl, htone, hup, fun _ => hsends hs⟩
  | false => cases e <;> exact ⟨hup, hlatch, htone, hup, fun _ => hsends hs⟩

theorem Keyer.Only.clearLatches (h : k.Only e) : k.clearLatches.Only e := by
  obtain ⟨hup, -, htone, hsil, hsends⟩ := h
  cases e <;> exact ⟨hup, rfl, htone, hsil, hsends⟩

theorem Keyer.Only.sendDecided (h : k.Only e) (hs : k.keyState ≠ .idle) : k.sendDecided.Only e := by
  unfold Keyer.sendDecided
  cases hd : k.decideNext with
  | none => exact h
  | some e' =>
    obtain rfl : e = e' := by
      rw [h.decideNext_eq hs] at hd
      split_ifs at hd
      exact Option.some_inj.mp hd
    obtain ⟨hup, hlatch, htone, hsil, -⟩ := h.clearLatches
    cases e <;> exact ⟨hup, hlatch, htone, hsil, fun _ => rfl⟩

theorem Keyer.Only.react (h : k.Only e) (clear : Bool) (now : Time) (ev : Event) : (k.react clear now ev).Only e := by
  cases ev <;> simp only [Keyer.react]
  case toneStart =>
    split_ifs with hs
    · exact h
    · exact h.startTone hs now
  case toneComplete =>
    split_ifs with hs
    · exact h.completeTone (by simp [hs.1]) clear now
    · exact h
  case beforeSilenceEnd =>
    split_ifs with hs
    · exact h.sendDecided (by simp [hs])
    · exact h
  case silenceComplete =>
    split_ifs
    · obtain ⟨hup, hlatch, htone, hsil, -⟩ := h.clearLatches
      cases e <;> exact ⟨hup, hlatch, htone, hsil, fun hidle => absurd rfl hidle⟩
    · exact h
  case becomeIdle => exact h

theorem Keyer.Only.setPaddles (h : k.Only e) {d dah : Bool} (hup : (k.setPaddles d dah).pressed e.opposite = false) :
    (k.setPaddles d dah).Only e := by
  obtain ⟨-, hlatch, htone, hsil, hsends⟩ := h
  cases e <;> exact ⟨hup, hlatch, htone, hsil, hsends⟩

/-- A released paddle has no edge to latch. -/
theorem Keyer.Only.latchEdges (h : k.Only e) (oldD oldH refD refH : Bool) : (k.latchEdges oldD oldH refD refH).Only e := by
  obtain ⟨hup, hlatch, htone, hsil, hsends⟩ := h
  have hno : (k.latchEdges oldD oldH refD refH).latch e.opposite = false := by
    cases e <;> simp_all [Keyer.latch, Keyer.pressed, Element.opposite, newlyPressed]
  cases e <;> exact ⟨hup, hno, htone, hsil, hsends⟩

theorem Keyer.only_beginElement (hup : k.pressed e.opposite = false) (now : Time) : (k.beginElement e now).Only e := by
  cases e <;> exact ⟨hup, rfl, hup, rfl, fun _ => rfl⟩

/-- With the other paddle released, the element that starts from Idle is `e` (R102). -/
theorem Keyer.element_of_pressed {d dah : Bool} (hup : (k.setPaddles d dah).pressed e.opposite = false)
    (hp : (d || dah) = true) : (if d then .dit else .dah) = e := by
  cases e <;> simp_all [Keyer.pressed, Element.opposite]

/-- Taking paddles of which the other one is released keeps the keyer to `e`. -/
theorem Keyer.Only.takePaddles (h : k.Only e) (d dah : Bool) (now : Time)
    (hup : (k.setPaddles d dah).pressed e.opposite = false) : (k.takePaddles d dah now).Only e := by
  unfold Keyer.takePaddles
  split
  · by_cases hp : (d || dah) = true
    · rw [if_pos hp, Keyer.element_of_pressed hup hp]
      exact Keyer.only_beginElement hup now
    · rw [if_neg hp]
      exact h.setPaddles hup
  · exact (h.setPaddles hup).latchEdges ..
  · exact (h.setPaddles hup).latchEdges ..

end

/-- Every operation keeps the keyer to one element, but an UPDATE_PADDLE with the other paddle pressed. -/
theorem exec_keeps_only {e : Element} {i : Instr} {s t : State} (h : exec i s = .next t) (hk : s.key.Only e)
    (hup : ∀ k d dah, i = .updatePaddle d dah → (Keyer.setPaddles k d dah).pressed e.opposite = false) : t.key.Only e :=
  exec_key_induction h hk (fun _ ev hk => hk.react _ _ ev) (fun _ hk => hk.stopped _)
    (fun _ _ ⟨hup, hlatch, htone, hsil, hsends⟩ => by cases e <;> exact ⟨hup, hlatch, htone, hsil, hsends⟩)
    (fun k d dah hi hk => hk.takePaddles d dah _ (hup k d dah hi))

/-- With its paddle held, the one element is decided every time. -/
theorem Keyer.Only.decideNext_of_held {e : Element} {k : Keyer} (h : k.Only e) (hs : k.keyState = .interElementSpace)
    (hheld : k.pressed e = true) : k.decideNext = some e := by
  rw [h.decideNext_eq (by simp [hs]), if_pos (.inr hheld)]

/-- Settles O47: the dit's case. -/
theorem ditPaddleAloneNeverSendsADah : Obligations.DitPaddleAloneNeverSendsADah := by
  refine ⟨fun i s t hk hi h => ?_, fun k hk hs hdit => (k.ditOnly_iff.mp hk).decideNext_of_held hs hdit⟩
  refine t.key.ditOnly_iff.mpr (exec_keeps_only h (s.key.ditOnly_iff.mp hk) fun k d dah hpaddles => ?_)
  cases dah
  · rfl
  · exact absurd hpaddles (hi d)

/-- Settles O59: the dah's case. -/
theorem dahPaddleAloneNeverSendsADit : Obligations.DahPaddleAloneNeverSendsADit := by
  refine ⟨fun i s t hk hi h => ?_, fun k hk hs hdah => (k.dahOnly_iff.mp hk).decideNext_of_held hs hdah⟩
  refine t.key.dahOnly_iff.mpr (exec_keeps_only h (s.key.dahOnly_iff.mp hk) fun k d dah hpaddles => ?_)
  cases d
  · rfl
  · exact absurd hpaddles (hi dah)

/-! ### READs split anywhere (R92)

Nothing in a READ depends on a TIME, on the host's buffer or on READ_RESULT: relabelling the TIMEs that a state notes and forgetting
the other two commutes with settling and emitting. -/

/-- A state as READ sees it, its TIMEs relabelled by `f`, its buffer and READ_RESULT forgotten. -/
def State.seenBy (f : Time → Time) (s : State) : State :=
  { s with
    time := f s.time
    key := { s.key with lastT := f s.key.lastT }
    buf := []
    readResult := none
    radioKey := s.radioKey.map fun e => ⟨e.asserted, f e.t⟩
    idle := s.idle.map f }

section
variable (f : Time → Time)

theorem State.seenBy_emitKey (s : State) (a : Bool) : (s.emitKey a).seenBy f = (s.seenBy f).emitKey a := by
  cases h : s.cfg.radioPresent <;> simp [State.seenBy, State.emitKey, h]

theorem State.seenBy_fire (s : State) (ev : Event) : (s.fire ev).seenBy f = (s.seenBy f).fire ev := by
  cases ev with
  | toneStart =>
    by_cases h : s.key.keyState = .idle
    · rw [State.fire, State.fire, State.onToneStart_of_idle h, State.onToneStart_of_idle (s := s.seenBy f) h]
    · rw [State.fire, State.fire, State.onToneStart_of_ne_idle h, State.onToneStart_of_ne_idle (s := s.seenBy f) h,
        State.seenBy_emitKey]
      rfl
  | toneComplete =>
    by_cases h : s.key.SoundsElement
    · rw [State.fire, State.fire, State.onToneComplete_of_element h, State.onToneComplete_of_element (s := s.seenBy f) h]
      have hkey := State.seenBy_emitKey f (s.setKey (s.key.completeTone s.cfg.latchClearAtToneComplete s.time)) false
      have hclear : ((s.setKey (s.key.completeTone s.cfg.latchClearAtToneComplete s.time)).seenBy f)
          = (s.seenBy f).setKey ((s.seenBy f).key.completeTone s.cfg.latchClearAtToneComplete (f s.time)) := by
        cases hc : s.cfg.latchClearAtToneComplete <;> rfl
      rw [hclear] at hkey
      exact congrArg (State.queueSilence · (gapMs s.reg.wpm) none) hkey
    · rw [State.fire, State.fire, State.onToneComplete_of_no_element h, State.onToneComplete_of_no_element (s := s.seenBy f) h]
  | beforeSilenceEnd =>
    by_cases h : s.key.keyState = .interElementSpace
    · cases hd : s.key.decideNext with
      | none =>
        rw [State.fire, State.fire, State.onBeforeSilenceEnd_of_undecided (.inr hd),
          State.onBeforeSilenceEnd_of_undecided (s := s.seenBy f) (.inr hd)]
      | some e =>
        rw [State.fire, State.fire, State.onBeforeSilenceEnd_of_decided h hd,
          State.onBeforeSilenceEnd_of_decided (s := s.seenBy f) h hd]
        rfl
    · rw [State.fire, State.fire, State.onBeforeSilenceEnd_of_undecided (.inl h),
        State.onBeforeSilenceEnd_of_undecided (s := s.seenBy f) (.inl h)]
  | silenceComplete =>
    by_cases h : s.key.keyState = .interElementSpace
    · rw [State.fire, State.fire, State.onSilenceComplete_of_interElementSpace h,
        State.onSilenceComplete_of_interElementSpace (s := s.seenBy f) h]
      rfl
    · rw [State.fire, State.fire, State.onSilenceComplete_of_ne_interElementSpace h,
        State.onSilenceComplete_of_ne_interElementSpace (s := s.seenBy f) h]
  | becomeIdle => simp [State.fire, State.emitIdle, State.seenBy]

theorem State.seenBy_perform (s : State) (a : SettleAction) : (s.perform a).seenBy f = (s.seenBy f).perform a := by
  have hfire (u : State) (o : Option Event) : (u.fireOption o).seenBy f = (u.seenBy f).fireOption o := by
    cases o with
    | none => rfl
    | some ev => exact State.seenBy_fire f u ev
  have hconclude (u : State) : (u.conclude a).seenBy f = (u.seenBy f).conclude a := by cases a <;> rfl
  rw [State.perform, hconclude, hfire]
  rfl

theorem State.seenBy_settle (s : State) : s.settle.seenBy f = (s.seenBy f).settle := by
  unfold State.settle
  generalize settlePasses = fuel
  induction fuel generalizing s with
  | zero => rfl
  | succ fuel ih =>
    rw [State.settleWithin, State.settleWithin, show (s.seenBy f).play.settleAction (s.seenBy f).reg (s.seenBy f).cfg.lead
      = s.play.settleAction s.reg s.cfg.lead from rfl]
    cases s.play.settleAction s.reg s.cfg.lead with
    | none => rfl
    | some a => exact (ih (s.perform a)).trans (congrArg _ (State.seenBy_perform f s a))

/-- With the buffer forgotten, it makes no difference where the turns write. -/
theorem State.seenBy_readSlots (n i j : Nat) (s : State) :
    (State.readSlots n i s).seenBy f = State.readSlots n j (s.seenBy f) := by
  induction n generalizing i j s with
  | zero => rfl
  | succ n ih =>
    have hturn : (s.readSlot i).seenBy f = (s.seenBy f).readSlot j := by
      rw [State.readSlot, State.readSlot, ← State.seenBy_settle]
      rfl
    rw [State.readSlots, State.readSlots, ih (i + 1) (j + 1), hturn]

theorem State.seenBy_readSamples (n : Nat) (s : State) : (s.readSamples n).seenBy f = (s.seenBy f).readSamples n := by
  rw [State.readSamples, State.seenBy_settle, State.seenBy_readSlots f n 0 0]
  rfl

/-- A READ that begins where another has settled is seen to go on with it. -/
theorem State.seenBy_readSamples_add {s s1 : State} (hne : s.reg.NonEmpty) (a b : Nat)
    (h : s1.seenBy f = (s.readSamples a).seenBy f) : (s1.readSamples b).seenBy f = (s.readSamples (a + b)).seenBy f := by
  have hindex (u : State) : State.readSlots b (0 + a) (u.seenBy f) = State.readSlots b 0 (u.seenBy f) :=
    (State.seenBy_readSlots f b 0 _ u).symm.trans (State.seenBy_readSlots f b 0 0 u)
  calc (s1.readSamples b).seenBy f
      = (State.readSlots b 0 ((State.readSlots a 0 s).seenBy f).settle).settle := by
        rw [State.seenBy_readSamples, h, State.readSamples, State.readSamples, State.seenBy_settle]
    _ = (State.readSlots b 0 ((State.readSlots a 0 s).seenBy f)).settle :=
        State.readSlots_settle_settle _ (by simpa [State.seenBy] using hne) b 0
    _ = (s.readSamples (a + b)).seenBy f := by
        rw [← hindex, ← State.seenBy_readSlots f b (0 + a), ← State.readSlots_add, ← State.seenBy_settle]
        rfl

theorem State.settleEvents_seenBy (fuel : Nat) (s : State) : (s.seenBy f).settleEvents fuel = s.settleEvents fuel := by
  induction fuel generalizing s with
  | zero => rfl
  | succ fuel ih =>
    rw [State.settleEvents, State.settleEvents, show (s.seenBy f).play.settleAction (s.seenBy f).reg (s.seenBy f).cfg.lead
      = s.play.settleAction s.reg s.cfg.lead from rfl]
    cases s.play.settleAction s.reg s.cfg.lead with
    | none => rfl
    | some a =>
      simp only [← State.seenBy_perform, ih]
      rfl

theorem State.readEvents_seenBy (n i j : Nat) (s : State) : State.readEvents n j (s.seenBy f) = State.readEvents n i s := by
  induction n generalizing i j s with
  | zero => exact State.settleEvents_seenBy f settlePasses s
  | succ n ih =>
    have hturn : (s.seenBy f).readSlot j = (s.readSlot i).seenBy f := by
      rw [State.readSlot, State.readSlot, ← State.seenBy_settle]
      rfl
    rw [State.readEvents, State.readEvents, State.settleEvents_seenBy, hturn, ih (i + 1) (j + 1)]

end

/-- A settled state has no event left to fire. -/
theorem State.settleEvents_settle {s : State} (hne : s.reg.NonEmpty) (fuel : Nat) : s.settle.settleEvents fuel = [] := by
  cases fuel with
  | zero => rfl
  | succ fuel =>
    have hready : s.settle.play.settleAction s.settle.reg s.settle.cfg.lead = none := by simpa using s.settle_ready hne
    rw [State.settleEvents, hready]

/-- The events of settling, then those of a READ from the settled state, are those of the READ. -/
theorem State.settleEvents_append_readEvents {s : State} (hne : s.reg.NonEmpty) (n i : Nat) :
    s.settleEvents settlePasses ++ State.readEvents n i s.settle = State.readEvents n i s := by
  cases n with
  | zero => rw [State.readEvents, State.readEvents, State.settleEvents_settle hne, List.append_nil]
  | succ n => rw [State.readEvents, State.readEvents, State.settleEvents_settle hne, List.nil_append, State.readSlot_settle s hne]

/-- The events of a READ of `a + b` samples are those of a READ of `a` and one of `b` from where it has settled. -/
theorem State.readEvents_add {s : State} (hne : s.reg.NonEmpty) (a b i : Nat) :
    State.readEvents (a + b) i s = State.readEvents a i s ++ State.readEvents b (i + a) (State.readSlots a i s).settle := by
  induction a generalizing i s with
  | zero => rw [Nat.zero_add, State.readEvents, State.readSlots, State.settleEvents_append_readEvents hne, Nat.add_zero]
  | succ a ih =>
    rw [Nat.succ_add, State.readEvents, State.readEvents, ih (by simpa using hne), List.append_assoc, State.readSlots,
      show i + 1 + a = i + (a + 1) by omega]

/-- What two states that look alike with every TIME the same have in common. -/
theorem State.eq_of_seenBy_const {u v : State} {t0 : Time} (h : u.seenBy (fun _ => t0) = v.seenBy (fun _ => t0)) :
    u.play = v.play ∧ u.reg = v.reg ∧ u.samples = v.samples ∧ { u.key with lastT := v.key.lastT } = v.key
      ∧ u.radioKey.map KeyEvent.asserted = v.radioKey.map KeyEvent.asserted ∧ u.idle.length = v.idle.length := by
  have hplay := congrArg State.play h
  have hreg := congrArg State.reg h
  have hsamples := congrArg State.samples h
  have hkey := congrArg (fun w : State => { w.key with lastT := v.key.lastT }) h
  have hradio := congrArg (fun w : State => w.radioKey.map KeyEvent.asserted) h
  have hidle := congrArg (fun w : State => w.idle.length) h
  refine ⟨hplay, hreg, hsamples, hkey, ?_, ?_⟩
  · simpa [State.seenBy, Function.comp_def] using hradio
  · simpa [State.seenBy] using hidle

/-- And two states that look alike with their own TIMEs. -/
theorem State.eq_of_seenBy_id {u v : State} (h : u.seenBy id = v.seenBy id) :
    u.key = v.key ∧ u.radioKey = v.radioKey ∧ u.idle = v.idle := by
  have hkey := congrArg State.key h
  refine ⟨hkey, ?_, ?_⟩
  · simpa [State.seenBy] using congrArg State.radioKey h
  · simpa [State.seenBy] using congrArg State.idle h

/-- Slot `k` after a READ holds the sample due after `k` samples. -/
theorem State.readSamples_slot (s : State) {n k : Nat} (hk : k < n) (hb : n ≤ s.buf.length) :
    (s.readSamples n).slot k = some ((s.readSamples k).play.currentSample s.reg) := by
  have hslot := State.readSlots_slot_inside n 0 s hk (by omega)
  simpa [State.readSamples, State.slot] using hslot

/-- Settles O29: seen with every TIME alike, or at one TIME seen as it is, the second READ goes on with the first. -/
theorem readsSplitAnywhere : Obligations.ReadsSplitAnywhere := by
  intro a b c s now hne hc hb
  let s1 : State := { s.readSamples a.toNat with readResult := some a }
  let s1' : State := { s1 with time := now }
  have hlen : s1'.buf.length = s.buf.length := by simp [s1', s1, State.readSamples]
  have hgoesOn (f : Time → Time) (hf : f now = f s.time) (n : Nat) :
      (s1'.readSamples n).seenBy f = (s.readSamples (a.toNat + n)).seenBy f :=
    State.seenBy_readSamples_add f hne a.toNat n (by simp [s1', s1, State.seenBy, hf])
  have hconst (n : Nat) := State.eq_of_seenBy_const (hgoesOn (fun _ => 0#64) rfl n)
  refine ⟨s1, { s1'.readSamples b.toNat with readResult := some b }, { s.readSamples c.toNat with readResult := some c },
    exec_read (by omega), exec_read (s := s1') (by omega), exec_read hb, ?_⟩
  obtain ⟨hplay, hreg, hsamples, hkey, hradio, hidle⟩ := hc ▸ hconst b.toNat
  refine ⟨hplay, hreg, hsamples, hkey, hradio, hidle, fun hnow => ?_, fun k hk => ?_, fun k hk => ?_, ?_⟩
  · exact State.eq_of_seenBy_id (hc ▸ hgoesOn id hnow b.toNat)
  · exact (s.readSamples_slot (n := c.toNat) (by omega) hb).trans (s.readSamples_slot hk (by omega)).symm
  · refine (s.readSamples_slot (n := c.toNat) (by omega) hb).trans (.trans ?_ (s1'.readSamples_slot hk (by omega)).symm)
    obtain ⟨hplay_k, -⟩ := hconst k
    rw [hplay_k, show s1'.reg = s.reg by simp [s1', s1]]
  · rw [hc, State.readEvents_add hne, ← State.readEvents_seenBy (fun _ => 0#64) _ (0 + a.toNat) 0,
      ← State.readEvents_seenBy (fun _ => 0#64) _ 0 0 s1']
    rfl

/-! ### The output traces grow at their sources (R19, R20, R112) -/

/-- `u`'s RADIO_KEY trace is `s`'s and calls made at `s`'s TIME, none without a sink, and key-downs only if `downs`. -/
def AddsKeyCalls (downs : Bool) (s u : State) : Prop :=
  ∃ l, u.radioKey = s.radioKey ++ l ∧ (∀ e ∈ l, e.t = s.time ∧ (e.asserted = true → downs = true))
    ∧ (s.cfg.radioPresent = false → l = [])

section
variable {downs : Bool} {s u v : State}

theorem addsKeyCalls_of_eq (h : u.radioKey = s.radioKey) : AddsKeyCalls downs s u :=
  ⟨[], by simpa using h, by simp, fun _ => rfl⟩

theorem AddsKeyCalls.trans (h : AddsKeyCalls downs s u) (htime : u.time = s.time) (hcfg : u.cfg = s.cfg)
    (h' : AddsKeyCalls downs u v) : AddsKeyCalls downs s v := by
  obtain ⟨l, hl, hcalls, hnone⟩ := h
  obtain ⟨l', hl', hcalls', hnone'⟩ := h'
  refine ⟨l ++ l', by rw [hl', hl, List.append_assoc], fun e he => ?_, fun hp => ?_⟩
  · rcases List.mem_append.mp he with he | he
    · exact hcalls e he
    · exact htime ▸ hcalls' e he
  · rw [hnone hp, hnone' (hcfg ▸ hp)]
    rfl

theorem addsKeyCalls_emitKey (s : State) {a : Bool} (ha : a = true → downs = true) : AddsKeyCalls downs s (s.emitKey a) := by
  refine ⟨_, s.emitKey_radioKey a, fun e he => ?_, fun hp => if_neg (by simp [hp])⟩
  split at he
  · obtain rfl := List.mem_singleton.mp he
    exact ⟨rfl, ha⟩
  · cases he

theorem addsKeyCalls_keyerStop (s : State) : AddsKeyCalls downs s s.keyerStop :=
  addsKeyCalls_emitKey (s.setKey (s.key.stopped s.time)) (a := false) (by simp)

theorem addsKeyCalls_watchdog (s : State) : AddsKeyCalls downs s s.watchdog := by
  unfold State.watchdog
  split
  · exact addsKeyCalls_keyerStop s
  · exact addsKeyCalls_of_eq rfl

theorem addsKeyCalls_fire (s : State) (ev : Event) : AddsKeyCalls true s (s.fire ev) := by
  cases ev with
  | toneStart =>
    by_cases h : s.key.keyState = .idle
    · exact addsKeyCalls_of_eq (by rw [State.fire, State.onToneStart_of_idle h])
    · rw [State.fire, State.onToneStart_of_ne_idle h]
      exact addsKeyCalls_emitKey (s.setKey _) (fun _ => rfl)
  | toneComplete =>
    by_cases h : s.key.SoundsElement
    · rw [State.fire, State.onToneComplete_of_element h]
      exact addsKeyCalls_emitKey (s.setKey _) (fun _ => rfl)
    · exact addsKeyCalls_of_eq (by rw [State.fire, State.onToneComplete_of_no_element h])
  | beforeSilenceEnd => exact addsKeyCalls_of_eq (by simp [State.fire])
  | silenceComplete => exact addsKeyCalls_of_eq (by simp [State.fire])
  | becomeIdle => exact addsKeyCalls_of_eq (by simp [State.fire])

end

/-- What an event adds to the IDLE trace. -/
theorem State.fire_idle (s : State) (ev : Event) :
    (s.fire ev).idle = s.idle ++ if ev = .becomeIdle then [s.time] else [] := by
  cases ev <;> simp [State.fire]

theorem State.fireOption_traces (s : State) (o : Option Event) :
    AddsKeyCalls true s (s.fireOption o) ∧ ∃ l, (s.fireOption o).idle = s.idle ++ l ∧ ∀ x ∈ l, x = s.time := by
  cases o with
  | none => exact ⟨addsKeyCalls_of_eq rfl, [], by simp [State.fireOption]⟩
  | some ev =>
    refine ⟨addsKeyCalls_fire s ev, _, s.fire_idle ev, fun x hx => ?_⟩
    split at hx
    · exact List.mem_singleton.mp hx
    · cases hx

/-- A pass adds to the traces what its event adds. -/
theorem State.perform_traces (s : State) (a : SettleAction) :
    AddsKeyCalls true s (s.perform a) ∧ ∃ l, (s.perform a).idle = s.idle ++ l ∧ ∀ x ∈ l, x = s.time := by
  obtain ⟨⟨l, hl, hcalls⟩, l', hl', hidle⟩ :=
    (s.setPlay (s.play.prepare s.reg a)).fireOption_traces (s.play.delivers a)
  exact ⟨⟨l, by simpa [State.perform] using hl, hcalls⟩, l', by simpa [State.perform] using hl', hidle⟩

theorem State.readSamples_traces (s : State) (n : Nat) :
    AddsKeyCalls true s (s.readSamples n) ∧ ∃ l, (s.readSamples n).idle = s.idle ++ l ∧ ∀ x ∈ l, x = s.time := by
  have hkeeps := State.readSamples_induction (s := s)
    (P := fun u => (u.time = s.time ∧ u.cfg = s.cfg) ∧ AddsKeyCalls true s u
      ∧ ∃ l, u.idle = s.idle ++ l ∧ ∀ x ∈ l, x = s.time)
    (fun u a ⟨⟨htime, hcfg⟩, hkey, l, hl, hidle⟩ _ => ?_) (fun u i hu _ => hu) n
    ⟨⟨rfl, rfl⟩, addsKeyCalls_of_eq rfl, [], by simp⟩
  · exact hkeeps.2
  · obtain ⟨hkey', l', hl', hidle'⟩ := u.perform_traces a
    refine ⟨by simp [htime, hcfg], hkey.trans htime hcfg hkey', l ++ l', by rw [hl', hl, List.append_assoc], fun x hx => ?_⟩
    exact (List.mem_append.mp hx).elim (hidle x) fun hx => htime ▸ hidle' x hx

/-- Settles O49: `keyerStop` adds key-ups, events add to both traces, and emissions add the samples. -/
theorem outputTracesOnlyGrowAtTheirSources : Obligations.OutputTracesOnlyGrowAtTheirSources := by
  intro i s t h
  by_cases hread : ∃ n, i = .read n
  · obtain ⟨n, rfl⟩ := hread
    obtain ⟨-, rfl⟩ := exec_read_cases h
    obtain ⟨⟨l, hl, hcalls, hnone⟩, l', hl', hidle⟩ := s.readSamples_traces n.toNat
    refine ⟨⟨l, hl, fun e he => ⟨(hcalls e he).1, fun _ => ⟨n, rfl⟩⟩, hnone, by simp [mayKey]⟩,
      ⟨l', hl', hidle, fun hn => absurd rfl (hn n)⟩, _, s.readSamples_samples n.toNat, fun m hm => ?_,
      fun hn => absurd rfl (hn n)⟩
    cases hm
    simp
  · obtain ⟨hidle, hsamples⟩ := exec_idle_samples_of_ne_read (fun n hn => hread ⟨n, hn⟩) h
    have hup : AddsKeyCalls false s t ∧ (mayKey i = false → t.radioKey = s.radioKey) := by
      rcases exec_cases h with ⟨-, rfl⟩ | ⟨-, rfl⟩ | ⟨dit, dah, rfl, rfl⟩ | ⟨rfl, rfl⟩ | ⟨n, rfl, -, -⟩
      · exact ⟨addsKeyCalls_of_eq (by simp), by simp⟩
      · exact ⟨addsKeyCalls_of_eq (by simp), by simp⟩
      · refine ⟨(addsKeyCalls_watchdog s).trans (by simp) (by simp) (addsKeyCalls_of_eq ?_), by simp [mayKey]⟩
        exact (State.takePaddles_key_output dit dah s.watchdog).1
      · exact ⟨addsKeyCalls_keyerStop s, by simp [mayKey]⟩
      · exact absurd ⟨n, rfl⟩ hread
    obtain ⟨⟨l, hl, hcalls, hnone⟩, hsame⟩ := hup
    refine ⟨⟨l, hl, fun e he => ⟨(hcalls e he).1, fun ha => by simpa using (hcalls e he).2 ha⟩, hnone, fun hm => ?_⟩,
      ⟨[], by simpa using hidle, by simp, fun _ => rfl⟩, [], by simpa using hsamples, fun n hn => absurd ⟨n, hn⟩ hread,
      fun _ => rfl⟩
    simpa [hsame hm] using hl

/-! ### The step (R37, R118, R120, R133) -/

theorem step_of_decode_ok {s : State} {c : Command} {rest : List Command} {i : Instr} (hin : s.input = c :: rest)
    (ht : s.time.toNat ≤ c.time.toNat) (hd : decode c.word = .ok i) : step s = exec i (s.accept i c rest) := by
  simp [step, fetch, hin, hd, Nat.not_lt.mpr ht]

theorem step_of_no_input {s : State} (h : s.input = []) : step s = .next s := by
  simp [step, fetch, h]

theorem step_of_time_decreased {s : State} {c : Command} {rest : List Command} (hin : s.input = c :: rest)
    (ht : c.time.toNat < s.time.toNat) : step s = .refused .timeDecreased := by
  simp [step, fetch, hin, ht]

/-- Settles O50: the state that runs the operation is the one that has taken its command. -/
theorem stepRunsTheDecodedOperation : Obligations.StepRunsTheDecodedOperation := by
  intro s c rest i hin ht hd
  rw [step_of_decode_ok hin ht hd]
  cases i <;> rfl

/-- Settles O51: the two ways a step takes no operation. -/
theorem stepWaitsAndKeepsTimeOrder : Obligations.StepWaitsAndKeepsTimeOrder :=
  ⟨fun _ => step_of_no_input, fun _ _ _ => step_of_time_decreased⟩

/-- An operation completes, but for a READ without its slots (R118, I20). -/
theorem exec_completes (i : Instr) (s : State) :
    (∃ t, exec i s = .next t) ∨ ∃ n, i = .read n ∧ s.buf.length < n.toNat ∧ exec i s = .refused .bufferTooShort := by
  cases i with
  | setFrequency hz => exact .inl ⟨_, exec_of_configures rfl s⟩
  | read n =>
    rcases Nat.lt_or_ge s.buf.length n.toNat with hshort | hb
    · exact .inr ⟨n, rfl, hshort, if_pos hshort⟩
    · exact .inl ⟨_, exec_read hb⟩
  | _ => exact .inl ⟨_, rfl⟩

/-- Settles O52: the one operation that may not complete is a READ, and it has its slots. -/
theorem wellFormedWordsComplete : Obligations.WellFormedWordsComplete := by
  intro s c rest i hin ht hd hslots
  rw [step_of_decode_ok hin ht hd]
  refine (exec_completes i _).resolve_right ?_
  rintro ⟨n, rfl, hshort, -⟩
  exact absurd (hslots n rfl) (Nat.not_le.mpr hshort)

/-- Settles O53: `fetch`'s two refusals and READ's. -/
theorem refusalReasonsAreClosed : Obligations.RefusalReasonsAreClosed := by
  refine ⟨fun s => ?_, fun c t0 => ⟨fun hc => if_pos hc, fun hc => if_neg hc⟩⟩
  cases hin : s.input with
  | nil => exact .inl ⟨s, step_of_no_input hin⟩
  | cons c rest =>
    rcases Nat.lt_or_ge c.time.toNat s.time.toNat with hlt | ht
    · exact .inr (.inr (.inl (step_of_time_decreased hin hlt)))
    · cases hd : decode c.word with
      | error why => exact .inr (.inl ⟨why, step_of_decode_error hin ht hd⟩)
      | ok i =>
        rw [step_of_decode_ok hin ht hd]
        rcases exec_completes i (s.accept i c rest) with hnext | ⟨-, -, -, hshort⟩
        · exact .inl hnext
        · exact .inr (.inr (.inr hshort))

/-- Settles O54: the command's TIME is not lower, and the operation leaves it. -/
theorem stepKeepsTimeAndParameters : Obligations.StepKeepsTimeAndParameters := by
  intro s t h
  rcases step_cases h with ⟨rfl, hin⟩ | ⟨c, rest, i, hin, ht, -, hexec⟩
  · exact ⟨le_rfl, rfl, by rw [hin]; rfl⟩
  · obtain ⟨hcfg, hinput, htime⟩ := exec_frame hexec
    exact ⟨htime ▸ ht, hcfg, by rw [hinput, hin]; rfl⟩

/-! ### What is observed of a run (R139) -/

/-- The samples that the READs among some commands ask for. -/
def samplesAsked (cs : List Command) : Nat := (cs.map fun c => slotsFor c.word).sum

/-- `u` goes on from `s` by the commands `cs`: their samples are added to the stream, and the traces keep all they held. -/
structure GoesOn (cs : List Command) (s u : State) : Prop where
  samples : ∃ l, u.samples = s.samples ++ l ∧ l.length = samplesAsked cs
  radioKey : s.radioKey <+: u.radioKey
  idle : s.idle <+: u.idle

theorem GoesOn.trans {cs cs' : List Command} {s t u : State} (h : GoesOn cs s t) (h' : GoesOn cs' t u) :
    GoesOn (cs ++ cs') s u := by
  obtain ⟨l, hl, hlen⟩ := h.samples
  obtain ⟨l', hl', hlen'⟩ := h'.samples
  refine ⟨⟨l ++ l', by rw [hl', hl, List.append_assoc], ?_⟩, h.radioKey.trans h'.radioKey, h.idle.trans h'.idle⟩
  simp [samplesAsked, hlen, hlen']

theorem goesOn_refl (s : State) : GoesOn [] s s := ⟨⟨[], by simp [samplesAsked]⟩, ⟨[], by simp⟩, ⟨[], by simp⟩⟩

/-- The operation at the head of the input adds the samples its word asks for. -/
theorem exec_goesOn {s t : State} {c : Command} {rest : List Command} {i : Instr} (hd : decode c.word = .ok i)
    (h : exec i (s.accept i c rest) = .next t) : GoesOn [c] s t := by
  obtain ⟨⟨lk, hk, -⟩, ⟨li, hi, -⟩, l, hl, hread, hother⟩ := outputTracesOnlyGrowAtTheirSources i _ t h
  refine ⟨⟨l, hl, ?_⟩, ⟨lk, hk.symm⟩, ⟨li, hi.symm⟩⟩
  have hasked : samplesAsked [c] = slotsFor c.word := by simp [samplesAsked]
  by_cases hn : ∃ n, i = .read n
  · obtain ⟨n, rfl⟩ := hn
    rw [hasked, slotsFor_read hd, hread n rfl]
  · have hne : ∀ n, i ≠ .read n := fun n hi => hn ⟨n, hi⟩
    rw [hasked, slotsFor_of_ne_read hd hne, hother hne]
    rfl

theorem step_goesOn {s t : State} (h : step s = .next t) : GoesOn (s.input.take 1) s t ∧ t.input = s.input.drop 1 := by
  obtain ⟨-, -, hinput⟩ := stepKeepsTimeAndParameters s t h
  refine ⟨?_, by rw [hinput, List.drop_one]⟩
  rcases step_cases h with ⟨rfl, hin⟩ | ⟨c, rest, i, hin, -, hd, hexec⟩
  · rw [hin]
    exact goesOn_refl t
  · rw [hin]
    exact exec_goesOn hd hexec

theorem run_succ_iff {k : Nat} {s u : Sys2Proof.core.State} :
    Host.Core.run Sys2Proof.core (k + 1) s = .next u
      ↔ ∃ t, Sys2Proof.core.step s = .next t ∧ Host.Core.run Sys2Proof.core k t = .next u := by
  rw [Host.Core.run]
  cases Sys2Proof.core.step s <;> simp

theorem run_goesOn {k : Nat} {s u : State}
    (h : Host.Core.run Sys2Proof.core k s = .next u) :
    GoesOn (s.input.take k) s u ∧ u.input = s.input.drop k := by
  induction k generalizing s with
  | zero =>
    cases h
    exact ⟨goesOn_refl _, rfl⟩
  | succ k ih =>
    obtain ⟨t, hstep, hrun⟩ := run_succ_iff.mp h
    obtain ⟨hfirst, hinput⟩ := step_goesOn hstep
    obtain ⟨hothers, hrest⟩ := ih hrun
    rw [Nat.add_comm, List.take_add, ← List.drop_drop, ← hinput]
    exact ⟨hfirst.trans hothers, hrest⟩

/-- The host keeps its duties for all that waits: words that decode, READs with their slots, a TIME that never decreases. -/
structure State.Served (s : State) : Prop where
  commands : ∀ c ∈ s.input, (∃ i, decode c.word = .ok i) ∧ slotsFor c.word ≤ c.buffer.length
  times : (s.time :: s.input.map Command.time).Pairwise (fun t u => t.toNat ≤ u.toNat)

/-- A step of such a state completes, at another such state. -/
theorem State.Served.step {s : State} (h : s.Served) : ∃ t, step s = .next t ∧ t.Served := by
  obtain ⟨hcommands, htimes⟩ := h
  cases hin : s.input with
  | nil => exact ⟨s, step_of_no_input hin, hcommands, htimes⟩
  | cons c rest =>
    rw [hin] at hcommands htimes
    obtain ⟨hfirst, hrest⟩ := List.pairwise_cons.mp htimes
    obtain ⟨⟨i, hd⟩, hslots⟩ := hcommands c (by simp)
    have ht : s.time.toNat ≤ c.time.toNat := hfirst c.time (by simp)
    obtain ⟨t, hstep⟩ := wellFormedWordsComplete s c rest i hin ht hd fun n hn => by
      subst hn
      exact slotsFor_read hd ▸ hslots
    obtain ⟨-, hinput, htime⟩ := exec_frame (step_of_decode_ok hin ht hd ▸ hstep)
    refine ⟨t, hstep, ?_, ?_⟩
    · rw [hinput]
      exact fun c' hc' => hcommands c' (List.mem_cons_of_mem c hc')
    · rw [hinput, htime]
      exact hrest

theorem State.Served.run {s : State} (h : s.Served) (k : Nat) : ∃ u, Host.Core.run Sys2Proof.core k s = .next u := by
  induction k generalizing s with
  | zero => exact ⟨s, rfl⟩
  | succ k ih =>
    obtain ⟨t, hstep, ht⟩ := h.step
    obtain ⟨u, hrun⟩ := ih ht
    exact ⟨u, run_succ_iff.mpr ⟨t, hstep, hrun⟩⟩

theorem State.observeAfter_eq_some_iff {k : Nat} {s : State} {o : Observation} :
    s.observeAfter k = some o ↔ ∃ u, Host.Core.run Sys2Proof.core k s = .next u ∧ u.observe = o := by
  rw [State.observeAfter]
  cases Host.Core.run Sys2Proof.core k s <;> simp

/-- Settles O60: a run is its steps, each of which adds its outputs and, where the host keeps its duties, completes. -/
theorem observationCollectsEveryOutput : Obligations.ObservationCollectsEveryOutput := by
  refine ⟨fun k s o h => ?_, fun k s hcommands htimes => ?_⟩
  · obtain ⟨u, hrun, rfl⟩ := State.observeAfter_eq_some_iff.mp h
    obtain ⟨⟨hsamples, hradio, hidle⟩, hinput⟩ := run_goesOn hrun
    exact ⟨hsamples, hradio, hidle, hinput, rfl, rfl, rfl⟩
  · obtain ⟨u, hrun⟩ := State.Served.run ⟨hcommands, htimes⟩ k
    exact ⟨u.observe, State.observeAfter_eq_some_iff.mpr ⟨u, hrun, rfl⟩⟩

end Sys2Proof.Machine
